-- ==== Sys2Proof/Word.lean ====
section
/-! DEFINITION. The word types: the register byte (00_scope.md R7, `REG_DATA_BITS`) and the command
operand word (00_scope.md R6, `OPERAND_BITS`). -/

namespace Sys2Proof

/-- One byte: a sensor register (00_scope.md R6, `REG_DATA_BITS = 8`) or an opcode. -/
abbrev Byte := BitVec 8

/-- One command operand (00_scope.md R6, `OPERAND_BITS = 32`). -/
abbrev Word := BitVec 32

/-- One of the 256 register addresses 0x00 to 0xFF (20_memory.md R50, `REG_ADDR_BITS = 8`). -/
abbrev RegAddr := BitVec 8

end Sys2Proof
end

