-- ==== Sys2Proof/Config.lean ====
section
/-! DEFINITION. The block's parameters (00_scope.md R6, 92_eei_decisions.md "Model parameters"),
the fixed constants of the register map (20_memory.md R51), and the free values: opaque constants
without a body for everything the spec leaves to a free draw. -/

namespace Sys2Proof

/-- `OVERFLOW_POLICY` (00_scope.md R9, 92_eei_decisions.md D7): an intermediate outside its stage's
width ends the stage (`fault`, the default), or is kept exactly (`unbounded`). -/
inductive OverflowPolicy where
  | fault
  | unbounded
deriving DecidableEq, Repr

/-- `MODE10_DECODE` (92_eei_decisions.md D23): what the mode decoder makes of mode bits 0b10. Left
OPEN, the decoded mode is a free draw from 0, 1, 2 (93_implementation_defined.md U5). -/
inductive Mode10Decode where
  | sleep
  | forced
  | normal
  | leftOpen
deriving DecidableEq, Repr

/-- The model parameters a block is built with. The spec takes them as arguments of the model
(00_scope.md R6), so `State` holds them and no step writes them (log 8). -/
structure Params where
  /-- `DEV_ADDR`, passed unchanged on every transaction (20_memory.md R55). -/
  devAddr : Nat
  /-- `OVERFLOW_POLICY`. -/
  overflowPolicy : OverflowPolicy
  /-- `H45_SIGN_EXTEND` (30_encoding.md R96). -/
  h45SignExtend : Bool
  /-- `MODE10_DECODE` (41_codec.md R149). -/
  mode10Decode : Mode10Decode
deriving DecidableEq, Repr

namespace Config

/-- `DEV_ADDR` is OPEN (00_scope.md R6, 92_eei_decisions.md D29): the value of the parameter in the
reset state is this constant, about which nothing is known (log 8). -/
opaque devAddr : Nat

/-- What the bus answers to the n-th free draw when it is a read: any byte list, or `none` for
`Fail` (20_memory.md R57, 93_implementation_defined.md U1). Free value (log 6). -/
opaque freeRead : Nat → Option (List Byte)

/-- Whether the n-th free draw, when it is a write, is answered `Ok` (20_memory.md R57). Free value
(log 6). -/
opaque freeWrite : Nat → Bool

/-- The sign and payload of the quiet NaN that the n-th free draw delivers for a NaN offset
(93_implementation_defined.md U4). Free value (log 12). -/
opaque freeNaN : Nat → Word

/-- The mode ordinal the n-th free draw gives for mode bits 0b10 when `MODE10_DECODE` is left open
(93_implementation_defined.md U5). Free value (log 14). -/
opaque freeMode : Nat → Fin 3

end Config

/-- The parameters with the values 00_scope.md R6 fixes as defaults. -/
def Params.default : Params where
  devAddr := Config.devAddr
  overflowPolicy := .fault
  h45SignExtend := false
  mode10Decode := .forced

/-- `W_T`, the signed width of the temperature stage (00_scope.md R6). -/
abbrev wT : Nat := 32

/-- `W_P`, the signed width of the pressure stage (00_scope.md R6). -/
abbrev wP : Nat := 64

/-- `W_H`, the signed width of the humidity stage (00_scope.md R6). -/
abbrev wH : Nat := 32

/-- `OS_MAX_ORD` (00_scope.md R6). -/
abbrev osMaxOrd : Nat := 5

/-- `MODE_MAX_ORD` (00_scope.md R6). -/
abbrev modeMaxOrd : Nat := 2

/-- `FILTER_MAX_ORD` (00_scope.md R6). -/
abbrev filterMaxOrd : Nat := 4

/-- `STANDBY_MAX_ORD` (00_scope.md R6). -/
abbrev standbyMaxOrd : Nat := 7

/-- `CAL_SPAN_A`: address and length (00_scope.md R6). -/
abbrev calSpanA : RegAddr := 0x88#8
abbrev calSpanALen : Nat := 24

/-- `CAL_SPAN_H1` (00_scope.md R6). -/
abbrev calSpanH1 : RegAddr := 0xA1#8
abbrev calSpanH1Len : Nat := 1

/-- `CAL_SPAN_B` (00_scope.md R6). -/
abbrev calSpanB : RegAddr := 0xE1#8
abbrev calSpanBLen : Nat := 7

/-- `BURST_ADDR` and `BURST_LEN` (00_scope.md R6). -/
abbrev burstAddr : RegAddr := 0xF7#8
abbrev burstLen : Nat := 8

/-- The chip-id register (20_memory.md R51). -/
abbrev chipIdAddr : RegAddr := 0xD0#8

/-- `SOFT_RESET_ADDR` and `SOFT_RESET_VALUE` (00_scope.md R6). -/
abbrev softResetAddr : RegAddr := 0xE0#8
abbrev softResetValue : Byte := 0xB6#8

/-- The ctrl_hum, status, ctrl_meas and config registers (20_memory.md R51). -/
abbrev ctrlHumAddr : RegAddr := 0xF2#8
abbrev statusAddr : RegAddr := 0xF3#8
abbrev ctrlMeasAddr : RegAddr := 0xF4#8
abbrev configAddr : RegAddr := 0xF5#8

end Sys2Proof
end

