-- ==== Sys2Proof/Syntax.lean ====
section
/-! DEFINITION. The command as the host presents it (30_encoding.md R80), and `Instr`: one
constructor per row of the opcode map (30_encoding.md R82), carrying the operands of 30_encoding.md
R81 with each field already taken out of its operand word. -/

namespace Sys2Proof

/-- The four fields presented together on the command port (30_encoding.md R80). -/
structure Command where
  opcode : Byte
  a : Word
  b : Word
  c : Word
deriving DecidableEq, Repr

/-- What arrives at the block from outside: a command of the host (10_state.md R21), or a block
reset by the environment (70_reset_and_hazards.md R320). -/
inductive Input where
  | command (c : Command)
  | blockReset
deriving DecidableEq, Repr

/-- The 8 bytes of a measurement burst, b0 being register 0xF7 (30_encoding.md R93). -/
structure Burst where
  b0 : Byte
  b1 : Byte
  b2 : Byte
  b3 : Byte
  b4 : Byte
  b5 : Byte
  b6 : Byte
  b7 : Byte
deriving DecidableEq, Repr

/-- The commands. Raw values, ordinals, counts and `t_fine` are the integers the spec computes with
(00_scope.md R8, 42_compensation.md R180); `Instr.wf` bounds them by their field's width. A binary32
offset and a register image stay bit patterns. -/
inductive Instr where
  /-- LOAD_CALIB, 0x10 (40_calibration.md R120). -/
  | loadCalib
  /-- COMP_T, 0x20 (42_compensation.md R197). -/
  | compT (rawT : Nat)
  /-- COMP_P, 0x21 (42_compensation.md R198). -/
  | compP (rawP : Nat) (tfine : Int)
  /-- COMP_H, 0x22 (42_compensation.md R199). -/
  | compH (rawH : Nat) (tfine : Int)
  /-- COMP_ALL, 0x23 (42_compensation.md R200). -/
  | compAll (burst : Burst) (offset : Word)
  /-- READ_ALL, 0x30 (43_bus_commands.md R240). -/
  | readAll (offset : Word)
  /-- READ_BUSY, 0x31 (43_bus_commands.md R241). -/
  | readBusy
  /-- READ_MODE, 0x32 (43_bus_commands.md R242). -/
  | readMode
  /-- READ_CHIP_ID, 0x33 (43_bus_commands.md R243). -/
  | readChipId
  /-- WRITE_CTRL_HUM, 0x38 (43_bus_commands.md R244). -/
  | writeCtrlHum (osH : Nat)
  /-- WRITE_CTRL_MEAS, 0x39 (43_bus_commands.md R245). -/
  | writeCtrlMeas (osT osP mode : Nat)
  /-- WRITE_CONFIG, 0x3A (43_bus_commands.md R246). -/
  | writeConfig (standby filter : Nat)
  /-- SOFT_RESET, 0x3B (43_bus_commands.md R247). -/
  | softReset
  /-- ENC_OS, 0x40 (41_codec.md R141). -/
  | encOs (ord : Nat)
  /-- ENC_OS_COUNT, 0x41 (41_codec.md R142). -/
  | encOsCount (count : Nat)
  /-- ENC_MODE, 0x42 (41_codec.md R143). -/
  | encMode (ord : Nat)
  /-- ENC_FILTER, 0x43 (41_codec.md R144). -/
  | encFilter (ord : Nat)
  /-- ENC_STANDBY, 0x44 (41_codec.md R145). -/
  | encStandby (ord : Nat)
  /-- ENC_CTRL_MEAS, 0x45 (41_codec.md R146). -/
  | encCtrlMeas (osT osP mode : Nat)
  /-- ENC_CONFIG, 0x46 (41_codec.md R147). -/
  | encConfig (standby filter : Nat)
  /-- ENC_CTRL_HUM, 0x47 (41_codec.md R148). -/
  | encCtrlHum (osH : Nat)
  /-- DEC_MODE, 0x48 (41_codec.md R149). -/
  | decMode (image : Byte)
  /-- DEC_BUSY, 0x49 (41_codec.md R150). -/
  | decBusy (image : Byte)
  /-- PARSE_BURST, 0x4A (41_codec.md R151). -/
  | parseBurst (burst : Burst)
deriving DecidableEq, Repr

end Sys2Proof
end

