-- ==== Sys2Proof/WellFormed.lean ====
section
/-! DEFINITION. Which `Instr` terms a command word can carry: every operand fits its field
(30_encoding.md R81, R104). -/

namespace Sys2Proof

/-- `v` is a u_n value (00_scope.md R8). -/
def fitsU (n v : Nat) : Bool := decide (v < 2 ^ n)

/-- `v` is an s_32 value (00_scope.md R8): the range of a t_fine operand. -/
def fitsS32 (v : Int) : Bool := decide (-2 ^ 31 ≤ v) && decide (v < 2 ^ 31)

/-- Every operand is a value of its field: raw values are u_20 or u_16 (30_encoding.md R81), a
t_fine is an s_32, an ordinal or a count is the whole u_32 (30_encoding.md R104). Clamping is part of
the meaning, so an ordinal above its maximum is well formed (41_codec.md R140). -/
def Instr.wf : Instr → Bool
  | .loadCalib => true
  | .compT rawT => fitsU 20 rawT
  | .compP rawP tfine => fitsU 20 rawP && fitsS32 tfine
  | .compH rawH tfine => fitsU 16 rawH && fitsS32 tfine
  | .compAll _ _ => true
  | .readAll _ => true
  | .readBusy => true
  | .readMode => true
  | .readChipId => true
  | .writeCtrlHum osH => fitsU 32 osH
  | .writeCtrlMeas osT osP mode => fitsU 32 osT && fitsU 32 osP && fitsU 32 mode
  | .writeConfig standby filter => fitsU 32 standby && fitsU 32 filter
  | .softReset => true
  | .encOs ord => fitsU 32 ord
  | .encOsCount count => fitsU 32 count
  | .encMode ord => fitsU 32 ord
  | .encFilter ord => fitsU 32 ord
  | .encStandby ord => fitsU 32 ord
  | .encCtrlMeas osT osP mode => fitsU 32 osT && fitsU 32 osP && fitsU 32 mode
  | .encConfig standby filter => fitsU 32 standby && fitsU 32 filter
  | .encCtrlHum osH => fitsU 32 osH
  | .decMode _ => true
  | .decBusy _ => true
  | .parseBurst _ => true

end Sys2Proof
end

