-- ==== Sys2Proof/Decode.lean ====
section
/-! DEFINITION. The decoder (30_encoding.md R82, R83, R103): total on every command, an illegal
opcode rejected by name. After it the encoder, the operand layout of the opcode table's numbering,
and the host assembler's one pseudo-command (30_encoding.md R88). -/

namespace Sys2Proof

/-- Why a command is not decoded. -/
inductive DecodeError where
  /-- The opcode is no row of 30_encoding.md R82 (30_encoding.md R83). -/
  | illegalOpcode (op : Byte)
deriving DecidableEq, Repr

/-- The raw-value operand `A[19:0]` as an unsigned integer; higher bits are ignored
(30_encoding.md R104). -/
def field20 (w : Word) : Nat := (w.extractLsb' 0 20).toNat

/-- The raw humidity operand `A[15:0]` (30_encoding.md R81). -/
def field16 (w : Word) : Nat := (w.extractLsb' 0 16).toNat

/-- The byte operand `A[7:0]` (30_encoding.md R104). -/
def field8 (w : Word) : Byte := w.extractLsb' 0 8

/-- The burst bytes of two operands, big-endian in each word: `A = {b0, b1, b2, b3}`,
`B = {b4, b5, b6, b7}` (30_encoding.md R81). -/
def burstOfWords (a b : Word) : Burst where
  b0 := a.extractLsb' 24 8
  b1 := a.extractLsb' 16 8
  b2 := a.extractLsb' 8 8
  b3 := a.extractLsb' 0 8
  b4 := b.extractLsb' 24 8
  b5 := b.extractLsb' 16 8
  b6 := b.extractLsb' 8 8
  b7 := b.extractLsb' 0 8

/-- The decoder: opcode map of 30_encoding.md R82, operands of R81. An ordinal or count operand is
the whole word read as u_32, a t_fine operand the whole word read as s_32 (R104). -/
def decode (cmd : Command) : Except DecodeError Instr :=
  match cmd.opcode with
  | 0x10#8 => .ok .loadCalib
  | 0x20#8 => .ok (.compT (field20 cmd.a))
  | 0x21#8 => .ok (.compP (field20 cmd.a) cmd.b.toInt)
  | 0x22#8 => .ok (.compH (field16 cmd.a) cmd.b.toInt)
  | 0x23#8 => .ok (.compAll (burstOfWords cmd.a cmd.b) cmd.c)
  | 0x30#8 => .ok (.readAll cmd.c)
  | 0x31#8 => .ok .readBusy
  | 0x32#8 => .ok .readMode
  | 0x33#8 => .ok .readChipId
  | 0x38#8 => .ok (.writeCtrlHum cmd.a.toNat)
  | 0x39#8 => .ok (.writeCtrlMeas cmd.a.toNat cmd.b.toNat cmd.c.toNat)
  | 0x3A#8 => .ok (.writeConfig cmd.a.toNat cmd.b.toNat)
  | 0x3B#8 => .ok .softReset
  | 0x40#8 => .ok (.encOs cmd.a.toNat)
  | 0x41#8 => .ok (.encOsCount cmd.a.toNat)
  | 0x42#8 => .ok (.encMode cmd.a.toNat)
  | 0x43#8 => .ok (.encFilter cmd.a.toNat)
  | 0x44#8 => .ok (.encStandby cmd.a.toNat)
  | 0x45#8 => .ok (.encCtrlMeas cmd.a.toNat cmd.b.toNat cmd.c.toNat)
  | 0x46#8 => .ok (.encConfig cmd.a.toNat cmd.b.toNat)
  | 0x47#8 => .ok (.encCtrlHum cmd.a.toNat)
  | 0x48#8 => .ok (.decMode (field8 cmd.a))
  | 0x49#8 => .ok (.decBusy (field8 cmd.a))
  | 0x4A#8 => .ok (.parseBurst (burstOfWords cmd.a cmd.b))
  | op => .error (.illegalOpcode op)

/-- The 24 opcodes of 30_encoding.md R82. -/
def opcodes : List Byte :=
  [0x10#8, 0x20#8, 0x21#8, 0x22#8, 0x23#8, 0x30#8, 0x31#8, 0x32#8, 0x33#8, 0x38#8, 0x39#8, 0x3A#8,
   0x3B#8, 0x40#8, 0x41#8, 0x42#8, 0x43#8, 0x44#8, 0x45#8, 0x46#8, 0x47#8, 0x48#8, 0x49#8, 0x4A#8]

/-- The opcode of a command's row (30_encoding.md R82). -/
def opcodeOf : Instr → Byte
  | .loadCalib => 0x10#8
  | .compT _ => 0x20#8
  | .compP _ _ => 0x21#8
  | .compH _ _ => 0x22#8
  | .compAll _ _ => 0x23#8
  | .readAll _ => 0x30#8
  | .readBusy => 0x31#8
  | .readMode => 0x32#8
  | .readChipId => 0x33#8
  | .writeCtrlHum _ => 0x38#8
  | .writeCtrlMeas _ _ _ => 0x39#8
  | .writeConfig _ _ => 0x3A#8
  | .softReset => 0x3B#8
  | .encOs _ => 0x40#8
  | .encOsCount _ => 0x41#8
  | .encMode _ => 0x42#8
  | .encFilter _ => 0x43#8
  | .encStandby _ => 0x44#8
  | .encCtrlMeas _ _ _ => 0x45#8
  | .encConfig _ _ => 0x46#8
  | .encCtrlHum _ => 0x47#8
  | .decMode _ => 0x48#8
  | .decBusy _ => 0x49#8
  | .parseBurst _ => 0x4A#8

/-- An unsigned operand in its word. -/
def wordOfNat (v : Nat) : Word := BitVec.ofNat 32 v

/-- A t_fine operand in its word: 32-bit two's complement (30_encoding.md R87). -/
def wordOfInt (v : Int) : Word := BitVec.ofInt 32 v

/-- A byte operand in its word, the higher bits 0. -/
def wordOfByte (v : Byte) : Word := v.setWidth 32

/-- Four bytes as one word, the first the most significant (30_encoding.md R81). -/
def wordOfBytes (x y z w : Byte) : Word :=
  (x.setWidth 32 <<< 24) ||| (y.setWidth 32 <<< 16) ||| (z.setWidth 32 <<< 8) ||| w.setWidth 32

/-- Burst bytes b0 to b3 packed into operand A (30_encoding.md R81). -/
def burstWordA (x : Burst) : Word := wordOfBytes x.b0 x.b1 x.b2 x.b3

/-- Burst bytes b4 to b7 packed into operand B (30_encoding.md R81). -/
def burstWordB (x : Burst) : Word := wordOfBytes x.b4 x.b5 x.b6 x.b7

/-- The operands A, B, C of a command (30_encoding.md R81); an unused operand, which the block
ignores (R80), is encoded as 0. -/
def operandsOf : Instr → Word × Word × Word
  | .loadCalib => (0, 0, 0)
  | .compT rawT => (wordOfNat rawT, 0, 0)
  | .compP rawP tfine => (wordOfNat rawP, wordOfInt tfine, 0)
  | .compH rawH tfine => (wordOfNat rawH, wordOfInt tfine, 0)
  | .compAll burst offset => (burstWordA burst, burstWordB burst, offset)
  | .readAll offset => (0, 0, offset)
  | .readBusy => (0, 0, 0)
  | .readMode => (0, 0, 0)
  | .readChipId => (0, 0, 0)
  | .writeCtrlHum osH => (wordOfNat osH, 0, 0)
  | .writeCtrlMeas osT osP mode => (wordOfNat osT, wordOfNat osP, wordOfNat mode)
  | .writeConfig standby filter => (wordOfNat standby, wordOfNat filter, 0)
  | .softReset => (0, 0, 0)
  | .encOs ord => (wordOfNat ord, 0, 0)
  | .encOsCount count => (wordOfNat count, 0, 0)
  | .encMode ord => (wordOfNat ord, 0, 0)
  | .encFilter ord => (wordOfNat ord, 0, 0)
  | .encStandby ord => (wordOfNat ord, 0, 0)
  | .encCtrlMeas osT osP mode => (wordOfNat osT, wordOfNat osP, wordOfNat mode)
  | .encConfig standby filter => (wordOfNat standby, wordOfNat filter, 0)
  | .encCtrlHum osH => (wordOfNat osH, 0, 0)
  | .decMode image => (wordOfByte image, 0, 0)
  | .decBusy image => (wordOfByte image, 0, 0)
  | .parseBurst burst => (burstWordA burst, burstWordB burst, 0)

/-- The encoder: the command of an instruction (30_encoding.md R80 to R82). -/
def encode (i : Instr) : Command where
  opcode := opcodeOf i
  a := (operandsOf i).1
  b := (operandsOf i).2.1
  c := (operandsOf i).2.2

/-- The command whose 104 bits are the number `w` cut to `nbits`: the opcode in bits 7:0, as
opcode_table.json numbers it, then A in 39:8, B in 71:40, C in 103:72 (log 3). -/
def commandOfTableWord (nbits w : Nat) : Command :=
  let v := w % 2 ^ nbits
  { opcode := BitVec.ofNat 8 v
    a := BitVec.ofNat 32 (v / 2 ^ 8)
    b := BitVec.ofNat 32 (v / 2 ^ 40)
    c := BitVec.ofNat 32 (v / 2 ^ 72) }

/-- The 104 bits of a command as one number, in the numbering of `commandOfTableWord`. -/
def tableWordOfCommand (cmd : Command) : Nat :=
  cmd.opcode.toNat + cmd.a.toNat * 2 ^ 8 + cmd.b.toNat * 2 ^ 40 + cmd.c.toNat * 2 ^ 72

/-- The instruction the decoder reads from a table word; none where it refuses. -/
def decodeTableWord (nbits w : Nat) : Option Instr :=
  match decode (commandOfTableWord nbits w) with
  | .ok i => some i
  | .error _ => none

/-- The host assembler's expansion of `CONFIGURE tos, pos, hos, mode, sb, flt` (30_encoding.md R88,
70_reset_and_hazards.md R324). The block never sees the pseudo-command. -/
def configure (tos pos hos mode sb flt : Nat) : List Instr :=
  [.writeCtrlMeas 0 0 0, .writeConfig sb flt, .writeCtrlHum hos, .writeCtrlMeas tos pos mode]

end Sys2Proof
end

