-- ==== Sys2Proof/Machine/State.lean ====
section
/-! DEFINITION. The machine's state as plain data: the Calibration Store and its flag, the
parameters, what the outside has presented, what the bus answers, and what the host has been given
so far. The result record, the bus trace, the stops, and the state after reset. -/

namespace Sys2Proof.Machine

/-- The Calibration Store: 18 coefficient registers (10_state.md R22), each held as the integer it
stands for (10_state.md R23). -/
structure Calib where
  t1 : Int
  t2 : Int
  t3 : Int
  p1 : Int
  p2 : Int
  p3 : Int
  p4 : Int
  p5 : Int
  p6 : Int
  p7 : Int
  p8 : Int
  p9 : Int
  h1 : Int
  h2 : Int
  h3 : Int
  h4 : Int
  h5 : Int
  h6 : Int
deriving DecidableEq, Repr

/-- Every coefficient register 0: the store after a block reset (10_state.md R30). -/
def Calib.zero : Calib := ⟨0, 0, 0, 0, 0, 0, 0, 0, 0, 0, 0, 0, 0, 0, 0, 0, 0, 0⟩

/-- The register space as a register image: the listed (address, byte) pairs, every other register
reading 0x00 (95_test_vectors.md section 3). Canonical form: `Memory.wf` in Ops. -/
abbrev Memory := List Host.Cell

/-- The answer to a read: `Ok` with any byte list, or `Fail` (20_memory.md R57). -/
inductive ReadAnswer where
  | ok (bytes : List Byte)
  | fail
deriving DecidableEq, Repr

/-- The answer to a write: `Ok` or `Fail` (20_memory.md R57). -/
inductive WriteAnswer where
  | ok
  | fail
deriving DecidableEq, Repr

/-- One event of the bus trace (20_memory.md R58), with the device address the block passed
(20_memory.md R55; log 9). -/
inductive BusEvent where
  | read (dev : Nat) (addr : RegAddr) (count : Nat) (answer : ReadAnswer)
  | write (dev : Nat) (addr : RegAddr) (value : Byte) (answer : WriteAnswer)
deriving DecidableEq, Repr

/-- The bus oracle (20_memory.md R57): the deterministic register image, or draws. The draws
already made are listed, the next one first; past the list every answer is a free value (log 4). -/
inductive Oracle where
  | image
  | draws (reads : List ReadAnswer) (writes : List WriteAnswer)
deriving DecidableEq, Repr

/-- The outcome codes by name (30_encoding.md R85); their numbers are `statusCode` in Flags. -/
inductive Status where
  | ok
  | busError
  | uncalibratedAccess
  | invalidPressureReading
  | illegalCommand
  | arithmeticOverflow
  | calibrationLocked
deriving DecidableEq, Repr

/-- The result record (30_encoding.md R84). Every field a command does not write is 0. -/
structure Result where
  status : BitVec 8 := 0
  /-- s_32 in two's complement. -/
  tfine : BitVec 32 := 0
  tF32 : BitVec 32 := 0
  tCorrF32 : BitVec 32 := 0
  pStatus : BitVec 8 := 0
  /-- s_64 in two's complement, Pa x 256. -/
  pQ8 : BitVec 64 := 0
  pF32 : BitVec 32 := 0
  hStatus : BitVec 8 := 0
  /-- u_32, %RH x 1024. -/
  hQ10 : BitVec 32 := 0
  hF32 : BitVec 32 := 0
  rawP : BitVec 20 := 0
  rawT : BitVec 20 := 0
  rawH : BitVec 16 := 0
  byte : BitVec 8 := 0
  code : BitVec 8 := 0
  mode : BitVec 8 := 0
  flag : BitVec 1 := 0
deriving DecidableEq, Repr

/-- What one command shows: its result record and its bus trace (20_memory.md R58). -/
structure Observation where
  result : Result
  trace : List BusEvent
deriving DecidableEq, Repr

/-- The state of the model. -/
structure State where
  /-- The coefficient registers x[0] to x[17] (10_state.md R22). -/
  calib : Calib
  /-- `CALIB_VALID` (10_state.md R24). -/
  calibValid : Bool
  /-- The parameters the block is built with (00_scope.md R6). No step writes them. -/
  params : Params
  /-- What the outside has presented and the block has not taken, next first (10_state.md R21). -/
  inputs : List Input
  /-- The (result, trace) pairs of this session, oldest first (20_memory.md R58). No command reads
  it (10_state.md R39). -/
  observed : List Observation
  /-- What answers the bus (20_memory.md R57). -/
  oracle : Oracle
  /-- The register image, used while `oracle` is `image` (95_test_vectors.md section 3). -/
  regs : Memory
  /-- The transport never answers (60_exceptions.md R282; log 7). -/
  hung : Bool
  /-- The model's own counter of free values drawn (log 6). -/
  fresh : Nat
deriving DecidableEq, Repr

/-- Why the machine stops. -/
inductive Fault where
  /-- A bus command reached its first transaction and the transport never answers: the command is
  stuck (60_exceptions.md R282, 93_implementation_defined.md S2). Raised by `onBus` for LOAD_CALIB,
  READ_ALL, READ_BUSY, READ_MODE, READ_CHIP_ID, WRITE_CTRL_HUM, WRITE_CTRL_MEAS, WRITE_CONFIG and
  SOFT_RESET. Safe: nothing is claimed of a command that never completes. -/
  | transportHung
deriving DecidableEq, Repr

/-- Why an instruction is refused. -/
inductive Refusal where
  /-- An instruction without a meaning, by its mnemonic. No arm of `exec` raises it. Safe: nothing
  is claimed of such an instruction. -/
  | notModelled (mnemonic : String)
deriving DecidableEq, Repr

/-- The outcome of a step or of a command. -/
abbrev Outcome := Host.Outcome State Fault Refusal

/-- The machine right after a block reset at power-up: `CALIB_VALID` and every coefficient register 0
(10_state.md R30), the trace empty (70_reset_and_hazards.md R320), nothing assumed of the sensor
(R322). The fields that are not block state: logs 4 to 8. -/
def State.reset : State where
  calib := Calib.zero
  calibValid := false
  params := Params.default
  inputs := []
  observed := []
  oracle := .draws [] []
  regs := []
  hung := false
  fresh := 0

end Sys2Proof.Machine
end

