-- ==== Sys2Proof/Machine/Flags.lean ====
section
/-! DEFINITION. The outcome codes, the checked arithmetic that decides them, and the two decoders of
sensor status: the busy flag and the mode. -/

namespace Sys2Proof.Machine

/-- The numbers of the status codes (30_encoding.md R85). -/
def statusCode : Status → BitVec 8
  | .ok => 0
  | .busError => 1
  | .uncalibratedAccess => 2
  | .invalidPressureReading => 3
  | .illegalCommand => 4
  | .arithmeticOverflow => 5
  | .calibrationLocked => 6

/-- The errors a compensation stage ends with (60_exceptions.md R281, codes 3 and 5). -/
inductive StageError where
  | invalidPressureReading
  | arithmeticOverflow
deriving DecidableEq, Repr

/-- The status of a stage error. -/
def stageStatus : StageError → Status
  | .invalidPressureReading => .invalidPressureReading
  | .arithmeticOverflow => .arithmeticOverflow

/-- A compensation stage: its value, or the error that ended it. -/
abbrev Stage := Except StageError Int

/-- `v` is an s_w value (00_scope.md R8). -/
def fitsS (w : Nat) (v : Int) : Bool := decide (-(2 ^ (w - 1)) ≤ v) && decide (v ≤ 2 ^ (w - 1) - 1)

/-- The check of a final result against its result field, made under either policy
(42_compensation.md R182). -/
def chkField (w : Nat) (v : Int) : Stage :=
  if fitsS w v then .ok v else .error .arithmeticOverflow

/-- `chk_W` (00_scope.md R9). -/
def chk (policy : OverflowPolicy) (w : Nat) (v : Int) : Stage :=
  match policy with
  | .fault => chkField w v
  | .unbounded => .ok v

/-- `a >> k`: floor division by 2^k (00_scope.md R8). -/
def asr (a : Int) (k : Nat) : Int := a.fdiv (2 ^ k)

/-- `a << k`: multiplication by 2^k, for a negative `a` too (00_scope.md R8). -/
def shl (a : Int) (k : Nat) : Int := a * 2 ^ k

/-- `a / b`: division truncated toward zero (42_compensation.md R181). -/
def divTrunc (a b : Int) : Int := a.tdiv b

/-- The busy flag of a status image: bit `BUSY_BIT = 3` (30_encoding.md R92). -/
def busyFlag (image : Byte) : BitVec 1 := image.extractLsb' 3 1

/-- The mode field of a ctrl_meas image: bits 1:0 (30_encoding.md R89). -/
def modeField (image : Byte) : BitVec 2 := image.extractLsb' 0 2

/-- The mode ordinal of mode bits 0b10 under `MODE10_DECODE`; none where it is left open and the
ordinal is a free draw (41_codec.md R149). -/
def mode10Ordinal : Mode10Decode → Option Nat
  | .sleep => some 0
  | .forced => some 1
  | .normal => some 2
  | .leftOpen => none

/-- The mode ordinal of a mode field: 0 sleep, 1 forced, 2 normal; none where it is a free draw
(41_codec.md R149). -/
def modeOrdinal (d : Mode10Decode) (m : BitVec 2) : Option Nat :=
  match m with
  | 0b00#2 => some 0
  | 0b01#2 => some 1
  | 0b11#2 => some 2
  | _ => mode10Ordinal d

end Sys2Proof.Machine
end

