-- ==== Sys2Proof/Machine/Float.lean ====
section
/-! DEFINITION. IEEE 754 binary32 (00_scope.md R13): rounding an exact rational to the nearest value,
ties to even, and addition under the same rounding. These are the only two floating-point operations
of the block. -/

namespace Sys2Proof.Machine

/-- The quotient of two naturals rounded to the nearest natural, ties to the even one. -/
def roundHalfEven (num den : Nat) : Nat :=
  let q := num / den
  let r := num % den
  if 2 * r < den then q
  else if den < 2 * r then q + 1
  else if q % 2 = 0 then q
  else q + 1

/-- How many binary places above 2^-149, the unit of the subnormals, the last place of the rounded
value of `m / d` stands: 0 for subnormals and the first normal binade. -/
def f32Shift (m d : Nat) : Nat := Nat.log2 (2 ^ 149 * m / d) - 23

/-- The exponent and fraction bits of `m / d` rounded to binary32. Adding the significand, hidden bit
included, to the shifted exponent lets a carry of the rounding run into the exponent; a value that
rounds past the largest finite one is infinity. -/
def f32Magnitude (m d : Nat) : Nat :=
  min (2 ^ 23 * f32Shift m d + roundHalfEven (2 ^ 149 * m) (d * 2 ^ f32Shift m d)) 0x7F800000

/-- Sign, exponent and fraction put together. -/
def f32Pack (negative : Bool) (magnitude : Nat) : Word :=
  BitVec.ofNat 32 ((if negative then 2 ^ 31 else 0) + magnitude)

/-- `f32bits(RNE32(num / den))`, with `RNE32(0) = +0.0` (00_scope.md R13). A nonzero negative rational
that rounds to zero gives -0.0, whose sign R13 does not fix: PRESUMED from IEEE 754 (log 13). -/
def rne32 (num : Int) (den : Nat) : Word := f32Pack (decide (num < 0)) (f32Magnitude num.natAbs den)

/-- The sign bit. -/
def f32Sign (x : Word) : Bool := x.getLsbD 31

/-- The biased exponent. -/
def f32Exp (x : Word) : Nat := (x.extractLsb' 23 8).toNat

/-- The fraction bits. -/
def f32Frac (x : Word) : Nat := (x.extractLsb' 0 23).toNat

/-- The pattern is a NaN. -/
def f32IsNaN (x : Word) : Bool := f32Exp x == 255 && f32Frac x != 0

/-- The pattern is an infinity. -/
def f32IsInf (x : Word) : Bool := f32Exp x == 255 && f32Frac x == 0

/-- The absolute value of a finite pattern, in units of 2^-149. -/
def f32Abs (x : Word) : Nat :=
  if f32Exp x = 0 then f32Frac x else (2 ^ 23 + f32Frac x) * 2 ^ (f32Exp x - 1)

/-- The value of a finite pattern, in units of 2^-149. -/
def f32Units (x : Word) : Int := if f32Sign x then -(f32Abs x : Int) else (f32Abs x : Int)

/-- The sum of two finite patterns: exact, then rounded once; an exact zero is +0.0 unless both
addends are negative (log 13). -/
def f32AddFinite (x y : Word) : Word :=
  if f32Units x + f32Units y = 0 then
    (if f32Sign x && f32Sign y then 0x80000000#32 else 0#32)
  else rne32 (f32Units x + f32Units y) (2 ^ 149)

/-- `f32add` (00_scope.md R13, 42_compensation.md R186); none where the result is a NaN, whose
pattern the spec leaves open (93_implementation_defined.md U4). -/
def f32Add (x y : Word) : Option Word :=
  if f32IsNaN x || f32IsNaN y then none
  else if f32IsInf x then (if f32IsInf y && (f32Sign x != f32Sign y) then none else some x)
  else if f32IsInf y then some y
  else some (f32AddFinite x y)

/-- A quiet NaN with the sign and payload bits of `free`: exponent all ones, bit 22 set
(93_implementation_defined.md U4). -/
def quietNaN (free : Word) : Word := (free &&& 0x803FFFFF#32) ||| 0x7FC00000#32

end Sys2Proof.Machine
end

