-- ==== Sys2Proof/Machine/Operands.lean ====
section
/-! DEFINITION. The operand forms: the clamp of an ordinal and the code it stands for
(41_codec.md R140), the nearest sample count (R142), the register images built from ordinals
(30_encoding.md R89 to R91), and the raw values of a burst (30_encoding.md R94). -/

namespace Sys2Proof.Machine

/-- `clamp(v, MAX)` (41_codec.md R140). -/
def clampOrd (v max : Nat) : Nat := min v max

/-- `os_code(v)`: oversampling, code = ordinal (41_codec.md R140, 30_encoding.md R97). -/
def osCode (v : Nat) : Nat := clampOrd v osMaxOrd

/-- `mode_code(v)`: 0b00, 0b01, 0b11 (41_codec.md R140, 30_encoding.md R98). -/
def modeCode (v : Nat) : Nat := [0b00, 0b01, 0b11].getD (clampOrd v modeMaxOrd) 0

/-- `flt_code(v)`: filter, code = ordinal (41_codec.md R140, 30_encoding.md R99). -/
def fltCode (v : Nat) : Nat := clampOrd v filterMaxOrd

/-- `sb_code(v)`: standby, code = ordinal (41_codec.md R140, 30_encoding.md R100). -/
def sbCode (v : Nat) : Nat := clampOrd v standbyMaxOrd

/-- The valid sample counts; the index is the ordinal (41_codec.md R142). -/
def validCounts : List Nat := [0, 1, 2, 4, 8, 16]

/-- How far apart two counts are. -/
def countDistance (a b : Nat) : Nat := (a - b) + (b - a)

/-- Of two candidate ordinals the one whose count is nearer to `n`; on a tie `k`, which the search
below always gives as the one with the smaller count (41_codec.md R142). -/
def nearerOrd (n k j : Nat) : Nat :=
  if countDistance n (validCounts.getD j 0) < countDistance n (validCounts.getD k 0) then j else k

/-- The ordinal of the valid count nearest to `n`, ties to the smaller count (41_codec.md R142). -/
def osCountCode (n : Nat) : Nat := [1, 2, 3, 4, 5].foldl (nearerOrd n) 0

/-- A code in the u_8 result field `code`. -/
def codeByte (v : Nat) : Byte := BitVec.ofNat 8 v

/-- The ctrl_meas image of three ordinals: `(tempOS<<5)|(pressOS<<2)|mode` (41_codec.md R146). -/
def ctrlMeasImage (osT osP mode : Nat) : Byte :=
  (codeByte (osCode osT) <<< 5) ||| (codeByte (osCode osP) <<< 2) ||| codeByte (modeCode mode)

/-- The config image of two ordinals: `(standby<<5)|(filter<<2)` (41_codec.md R147). -/
def configImage (standby filter : Nat) : Byte :=
  (codeByte (sbCode standby) <<< 5) ||| (codeByte (fltCode filter) <<< 2)

/-- The ctrl_hum image of an ordinal: bits 7:3 are 0 (41_codec.md R148). -/
def ctrlHumImage (osH : Nat) : Byte := codeByte (osCode osH)

/-- `raw_p = (b0 << 12) | (b1 << 4) | (b2 >> 4)` (30_encoding.md R94). -/
def burstRawP (x : Burst) : BitVec 20 :=
  (x.b0.setWidth 20 <<< 12) ||| (x.b1.setWidth 20 <<< 4) ||| (x.b2 >>> 4).setWidth 20

/-- `raw_t = (b3 << 12) | (b4 << 4) | (b5 >> 4)` (30_encoding.md R94). -/
def burstRawT (x : Burst) : BitVec 20 :=
  (x.b3.setWidth 20 <<< 12) ||| (x.b4.setWidth 20 <<< 4) ||| (x.b5 >>> 4).setWidth 20

/-- `raw_h = (b6 << 8) | b7` (30_encoding.md R94). -/
def burstRawH (x : Burst) : BitVec 16 :=
  (x.b6.setWidth 16 <<< 8) ||| x.b7.setWidth 16

/-- Byte `i` of a reply whose length has been checked. -/
def byteAt (bytes : List Byte) (i : Nat) : Byte := bytes.getD i 0

/-- The burst of an 8-byte reply (43_bus_commands.md R240). -/
def burstOfBytes (r : List Byte) : Burst where
  b0 := byteAt r 0
  b1 := byteAt r 1
  b2 := byteAt r 2
  b3 := byteAt r 3
  b4 := byteAt r 4
  b5 := byteAt r 5
  b6 := byteAt r 6
  b7 := byteAt r 7

end Sys2Proof.Machine
end

