-- ==== Sys2Proof/Machine/Ops.lean ====
section
/-! DEFINITION. The shared operations: the register image, one bus transaction each way with its
trace event (20_memory.md R55 to R58), delivering a result, raising an error (00_scope.md R12),
drawing a free value, block reset, and taking the next input. -/

namespace Sys2Proof.Machine

/-! ### The register image -/

/-- The byte at an address of the image; an unlisted address reads 0x00 (95_test_vectors.md
section 3; log 5). -/
def memRead : Memory → Nat → Byte
  | [], _ => 0
  | (a, v) :: m, k => if a = k then v else memRead m k

/-- The image with one byte written, in canonical form: addresses strictly rising, no entry 0x00. -/
def memWrite : Memory → Nat → Byte → Memory
  | [], k, v => if v = 0 then [] else [(k, v)]
  | (a, w) :: m, k, v =>
    if k < a then (if v = 0 then (a, w) :: m else (k, v) :: (a, w) :: m)
    else if k = a then (if v = 0 then m else (k, v) :: m)
    else (a, w) :: memWrite m k v

/-- Every listed address is above `k`. -/
def memAbove (k : Nat) (m : Memory) : Bool := m.all fun c => decide (k < c.1)

/-- The canonical form: addresses strictly rising and inside the 256 registers (20_memory.md R50),
no entry equal to what an unlisted address reads as. -/
def Memory.wf : Memory → Bool
  | [] => true
  | (a, v) :: m => decide (a < 256) && decide (v ≠ 0) && memAbove a m && Memory.wf m

/-- `n` registers from `addr` on: byte i is register addr + i (20_memory.md R56). -/
def memReadSpan (m : Memory) (addr n : Nat) : List Byte :=
  (List.range n).map fun i => memRead m (addr + i)

/-- What a write does to the image: it changes the byte at its address, except for 0xE0, which reads
0x00 (95_test_vectors.md section 3). -/
def imageWrite (m : Memory) (addr : RegAddr) (v : Byte) : Memory :=
  if addr = softResetAddr then m else memWrite m addr.toNat v

/-! ### The bus oracle -/

/-- The n-th free draw as the answer to a read. -/
def freeReadAnswer (n : Nat) : ReadAnswer :=
  match Config.freeRead n with
  | some bytes => .ok bytes
  | none => .fail

/-- The n-th free draw as the answer to a write. -/
def freeWriteAnswer (n : Nat) : WriteAnswer := if Config.freeWrite n then .ok else .fail

/-- The oracle's answer to `readBytes(DEV_ADDR, addr, n)` and the state of the oracle after it
(20_memory.md R57). -/
def drawRead (s : State) (addr : RegAddr) (n : Nat) : ReadAnswer × State :=
  match s.oracle with
  | .image => (.ok (memReadSpan s.regs addr.toNat n), s)
  | .draws (a :: reads) writes => (a, { s with oracle := .draws reads writes })
  | .draws [] _ => (freeReadAnswer s.fresh, { s with fresh := s.fresh + 1 })

/-- The oracle's answer to `writeByte(DEV_ADDR, addr, v)` and the state of the oracle after it
(20_memory.md R57). -/
def drawWrite (s : State) (addr : RegAddr) (v : Byte) : WriteAnswer × State :=
  match s.oracle with
  | .image => (.ok, { s with regs := imageWrite s.regs addr v })
  | .draws reads (a :: writes) => (a, { s with oracle := .draws reads writes })
  | .draws _ [] => (freeWriteAnswer s.fresh, { s with fresh := s.fresh + 1 })

/-- The bytes of an answer; none for `Fail` and for a reply of the wrong length
(40_calibration.md R122). -/
def acceptBytes (n : Nat) : ReadAnswer → Option (List Byte)
  | .ok bytes => if bytes.length = n then some bytes else none
  | .fail => none

/-! ### Ending a command -/

/-- What a command leaves when it ends: the state, the result record and the bus trace
(20_memory.md R58). -/
structure Reply where
  state : State
  result : Result
  trace : List BusEvent
deriving DecidableEq, Repr

/-- The (result, trace) pair added to what the host has been given (20_memory.md R58). -/
def observe (s : State) (res : Result) (trace : List BusEvent) : State :=
  { s with observed := s.observed ++ [⟨res, trace⟩] }

/-- `return` (00_scope.md R10): the result and the trace are delivered to the host. -/
def deliver (r : Reply) : Outcome := .next (observe r.state r.result r.trace)

/-- `return` with `res.status <- OK` and no transaction (00_scope.md R10). -/
def done (s : State) (res : Result) : Reply := ⟨s, { res with status := statusCode .ok }, []⟩

/-- `raise` (00_scope.md R12, 60_exceptions.md R280, R286): the status is the error's code, every
other result field is 0, block state stays as it was. No trap is taken: there is none. -/
def raise (s : State) (e : Status) : Reply := ⟨s, { status := statusCode e }, []⟩

/-- The event stands in the trace before everything the rest of the command adds. -/
def traced (ev : BusEvent) (r : Reply) : Reply := { r with trace := ev :: r.trace }

/-- What follows a read: the command goes on with the bytes, or raises BusError
(43_bus_commands.md R248). -/
def afterRead (s : State) (bytes : Option (List Byte)) (k : State → List Byte → Reply) : Reply :=
  match bytes with
  | some bs => k s bs
  | none => raise s .busError

/-- What follows a write: the command goes on, or raises BusError (43_bus_commands.md R248). -/
def afterWrite (s : State) (answer : WriteAnswer) (k : State → Reply) : Reply :=
  match answer with
  | .ok => k s
  | .fail => raise s .busError

/-- `r <- MemRead(addr, n); if r = Fail: raise BusError(); k` (00_scope.md R11,
43_bus_commands.md R248): one event, no retry. -/
def busRead (s : State) (addr : RegAddr) (n : Nat) (k : State → List Byte → Reply) : Reply :=
  traced (.read s.params.devAddr addr n (drawRead s addr n).1)
    (afterRead (drawRead s addr n).2 (acceptBytes n (drawRead s addr n).1) k)

/-- `if MemWrite(addr, 1, v) = Fail: raise BusError(); k` (00_scope.md R11, 43_bus_commands.md
R248). -/
def busWrite (s : State) (addr : RegAddr) (v : Byte) (k : State → Reply) : Reply :=
  traced (.write s.params.devAddr addr v (drawWrite s addr v).1)
    (afterWrite (drawWrite s addr v).2 (drawWrite s addr v).1 k)

/-- A command that has come to its first transaction: it is stuck if the transport never answers
(60_exceptions.md R282), and otherwise runs to its end. -/
def onBus (s : State) (r : Reply) : Outcome :=
  if s.hung then .fault .transportHung else deliver r

/-! ### Free values -/

/-- How many free values the sum with the temperature offset takes: one where it is a NaN. -/
def nanDraws (t offset : Word) : Nat := if (f32Add t offset).isNone then 1 else 0

/-- The sum with the temperature offset; where it is a NaN, a quiet NaN with free sign and payload,
and the counter moves on (42_compensation.md R186, 93_implementation_defined.md U4; log 12). -/
def addOffset (s : State) (t offset : Word) : Word × State :=
  ((f32Add t offset).getD (quietNaN (Config.freeNaN s.fresh)),
    { s with fresh := s.fresh + nanDraws t offset })

/-- `res.code` and `res.mode` of a ctrl_meas image (41_codec.md R149) on top of the fields in `res`;
with `MODE10_DECODE` left open the ordinal of 0b10 is a free draw (log 14). -/
def decodeModeInto (s : State) (image : Byte) (res : Result) : Reply :=
  match modeOrdinal s.params.mode10Decode (modeField image) with
  | some m => done s { res with code := (modeField image).setWidth 8, mode := codeByte m }
  | none =>
    done { s with fresh := s.fresh + 1 }
      { res with
        code := (modeField image).setWidth 8
        mode := codeByte (Config.freeMode s.fresh).val }

/-! ### Inputs -/

/-- An opcode that is no row of the map: ILLEGAL_COMMAND, no state change, no transaction
(30_encoding.md R83). -/
def illegalCommand (s : State) : Outcome := deliver (raise s .illegalCommand)

/-- A block reset (10_state.md R30, 70_reset_and_hazards.md R320): the store and its flag are cleared
and the new session's trace is empty; no transaction is issued and the sensor is left alone
(R322). -/
def blockReset (s : State) : State :=
  { s with calib := Calib.zero, calibValid := false, observed := [] }

/-- What stands next on the port, and the state with it taken (10_state.md R21). -/
def nextInput (s : State) : Option (Input × State) :=
  match s.inputs with
  | [] => none
  | x :: rest => some (x, { s with inputs := rest })

/-- A command presented before everything that waits on the port. -/
def present (s : State) (cmd : Command) : State := { s with inputs := .command cmd :: s.inputs }

end Sys2Proof.Machine
end

