-- ==== Sys2Proof/Machine/Compensation.lean ====
section
/-! DEFINITION. The Compensation Engine (42_compensation.md): the three stages in checked
fixed-point arithmetic, the record fields they fill, and the commands COMP_T, COMP_P, COMP_H and
COMP_ALL. -/

namespace Sys2Proof.Machine

/-- The temperature stage (42_compensation.md R188). The last check is the result field's, made
under either policy (R182). -/
def temperature (policy : OverflowPolicy) (c : Calib) (rawT : Int) : Stage := do
  let a ← chk policy wT (asr rawT 3)
  let b ← chk policy wT (shl c.t1 1)
  let d ← chk policy wT (a - b)
  let m1 ← chk policy wT (d * c.t2)
  let var1 := asr m1 11
  let e ← chk policy wT (asr rawT 4 - c.t1)
  let sq ← chk policy wT (e * e)
  let m2 ← chk policy wT (asr sq 12 * c.t3)
  let var2 := asr m2 14
  chkField wT (var1 + var2)

/-- The divisor of the pressure stage (42_compensation.md R191, R192): `chk(chk((1 << 47) + v1) * P1)
>> 33` for the `v1` of the step before. -/
def pressureDivisor (policy : OverflowPolicy) (c : Calib) (v1 : Int) : Stage := do
  let x ← chk policy wP (shl 1 47 + v1)
  let y ← chk policy wP (x * c.p1)
  return asr y 33

/-- The steps of the pressure stage before its divisor: the pair (v1, v2) (42_compensation.md
R191). -/
def pressureTerms (policy : OverflowPolicy) (c : Calib) (tfine : Int) :
    Except StageError (Int × Int) := do
  let v1 ← chk policy wP (tfine - 128000)
  let v1sq ← chk policy wP (v1 * v1)
  let v2 ← chk policy wP (v1sq * c.p6)
  let x ← chk policy wP (v1 * c.p5)
  let x ← chk policy wP (shl x 17)
  let v2 ← chk policy wP (v2 + x)
  let x ← chk policy wP (shl c.p4 35)
  let v2 ← chk policy wP (v2 + x)
  let x ← chk policy wP (v1sq * c.p3)
  let y ← chk policy wP (v1 * c.p2)
  let y ← chk policy wP (shl y 12)
  let v1 ← chk policy wP (asr x 8 + y)
  return (v1, v2)

/-- The steps of the pressure stage after its zero test (42_compensation.md R191). -/
def pressureTail (policy : OverflowPolicy) (c : Calib) (rawP v2 divisor : Int) : Stage := do
  let p ← chk policy wP (1048576 - rawP)
  let p ← chk policy wP (shl p 31)
  let p ← chk policy wP (p - v2)
  let p ← chk policy wP (p * 3125)
  let p := divTrunc p divisor
  let q := asr p 13
  let x ← chk policy wP (c.p9 * q)
  let x ← chk policy wP (x * q)
  let v1 := asr x 25
  let x ← chk policy wP (c.p8 * p)
  let v2 := asr x 19
  let x ← chk policy wP (p + v1)
  let x ← chk policy wP (x + v2)
  let y ← chk policy wP (shl c.p7 4)
  chkField wP (asr x 8 + y)

/-- The pressure stage (42_compensation.md R191): a zero divisor ends it with
InvalidPressureReading (R192). -/
def pressure (policy : OverflowPolicy) (c : Calib) (rawP tfine : Int) : Stage := do
  let (v1, v2) ← pressureTerms policy c tfine
  let divisor ← pressureDivisor policy c v1
  if divisor = 0 then throw .invalidPressureReading
  pressureTail policy c rawP v2 divisor

/-- The clamp of the humidity stage to [0, 100 x 2^22] (42_compensation.md R195). -/
def clampHumidity (v : Int) : Int := max 0 (min v 419430400)

/-- The humidity stage (42_compensation.md R194). -/
def humidity (policy : OverflowPolicy) (c : Calib) (rawH tfine : Int) : Stage := do
  let v ← chk policy wH (tfine - 76800)
  let x ← chk policy wH (shl rawH 14)
  let y ← chk policy wH (shl c.h4 20)
  let x ← chk policy wH (x - y)
  let y ← chk policy wH (c.h5 * v)
  let x ← chk policy wH (x - y)
  let x ← chk policy wH (x + 16384)
  let x1 := asr x 15
  let y ← chk policy wH (v * c.h6)
  let y1 := asr y 10
  let y ← chk policy wH (v * c.h3)
  let y2 ← chk policy wH (asr y 11 + 32768)
  let y ← chk policy wH (y1 * y2)
  let y3 ← chk policy wH (asr y 10 + 2097152)
  let y ← chk policy wH (y3 * c.h2)
  let y ← chk policy wH (y + 8192)
  let y4 := asr y 14
  let v ← chk policy wH (x1 * y4)
  let k := asr v 15
  let y ← chk policy wH (k * k)
  let y ← chk policy wH (asr y 7 * c.h1)
  let v ← chk policy wH (v - asr y 4)
  return asr (clampHumidity v) 12

/-- The temperature fields of a record (42_compensation.md R190). -/
def withTemperature (t : Int) (res : Result) : Result :=
  { res with tfine := BitVec.ofInt 32 t, tF32 := rne32 t 5120 }

/-- The pressure fields of a record (42_compensation.md R193). -/
def withPressure (p : Int) (res : Result) : Result :=
  { res with pQ8 := BitVec.ofInt 64 p, pF32 := rne32 p 256 }

/-- The humidity fields of a record (42_compensation.md R196). -/
def withHumidity (h : Int) (res : Result) : Result :=
  { res with hQ10 := BitVec.ofInt 32 h, hF32 := rne32 h 1024 }

/-- The raw values of a burst in a record (30_encoding.md R94). -/
def withRaw (x : Burst) (res : Result) : Result :=
  { res with rawP := burstRawP x, rawT := burstRawT x, rawH := burstRawH x }

/-- The pressure stage inside COMP_ALL: an error ends the stage only, its code goes to `p_status`
and the pressure fields stay 0 (42_compensation.md R200). -/
def pressureInto (stage : Stage) (res : Result) : Result :=
  match stage with
  | .ok p => withPressure p { res with pStatus := statusCode .ok }
  | .error e => { res with pStatus := statusCode (stageStatus e) }

/-- The humidity stage inside COMP_ALL (42_compensation.md R200). -/
def humidityInto (stage : Stage) (res : Result) : Result :=
  match stage with
  | .ok h => withHumidity h { res with hStatus := statusCode .ok }
  | .error e => { res with hStatus := statusCode (stageStatus e) }

/-- A single-stage command: the value's fields, or the stage's error raised
(42_compensation.md R197 to R199). -/
def stageReply (s : State) (stage : Stage) (fields : Int → Result → Result) : Reply :=
  match stage with
  | .ok v => done s (fields v {})
  | .error e => raise s (stageStatus e)

/-- The body of COMP_ALL after its calibration test: slice, temperature first, pressure and humidity
from the same uncorrected t_fine, and the offset on the temperature output only
(42_compensation.md R200 to R202). A temperature error ends the whole command. -/
def pipeline (s : State) (x : Burst) (offset : Word) : Reply :=
  match temperature s.params.overflowPolicy s.calib (burstRawT x).toNat with
  | .error e => raise s (stageStatus e)
  | .ok t =>
    done (addOffset s (rne32 t 5120) offset).2
      (humidityInto (humidity s.params.overflowPolicy s.calib (burstRawH x).toNat t)
        (pressureInto (pressure s.params.overflowPolicy s.calib (burstRawP x).toNat t)
          { withTemperature t (withRaw x {}) with
            tCorrF32 := (addOffset s (rne32 t 5120) offset).1 }))

/-- The calibration precondition, tested before anything else (42_compensation.md R187). -/
def ifCalibrated (s : State) (body : Outcome) : Outcome :=
  if s.calibValid then body else deliver (raise s .uncalibratedAccess)

/-- COMP_T (42_compensation.md R197). -/
def execCompT (rawT : Nat) (s : State) : Outcome :=
  ifCalibrated s <| deliver <|
    stageReply s (temperature s.params.overflowPolicy s.calib rawT) withTemperature

/-- COMP_P (42_compensation.md R198). -/
def execCompP (rawP : Nat) (tfine : Int) (s : State) : Outcome :=
  ifCalibrated s <| deliver <|
    stageReply s (pressure s.params.overflowPolicy s.calib rawP tfine) withPressure

/-- COMP_H (42_compensation.md R199). -/
def execCompH (rawH : Nat) (tfine : Int) (s : State) : Outcome :=
  ifCalibrated s <| deliver <|
    stageReply s (humidity s.params.overflowPolicy s.calib rawH tfine) withHumidity

/-- COMP_ALL (42_compensation.md R200). -/
def execCompAll (burst : Burst) (offset : Word) (s : State) : Outcome :=
  ifCalibrated s <| deliver <| pipeline s burst offset

end Sys2Proof.Machine
end

