-- ==== Sys2Proof/Machine/Bus.lean ====
section
/-! DEFINITION. The bus commands (43_bus_commands.md). -/

namespace Sys2Proof.Machine

/-- READ_ALL (43_bus_commands.md R240): the calibration test before any transaction, one burst read,
then the body of COMP_ALL on the bytes read. -/
def execReadAll (offset : Word) (s : State) : Outcome :=
  ifCalibrated s <| onBus s <|
    busRead s burstAddr burstLen fun s r => pipeline s (burstOfBytes r) offset

/-- READ_BUSY (43_bus_commands.md R241). -/
def execReadBusy (s : State) : Outcome :=
  onBus s <| busRead s statusAddr 1 fun s r =>
    done s { byte := byteAt r 0, flag := busyFlag (byteAt r 0) }

/-- READ_MODE (43_bus_commands.md R242). -/
def execReadMode (s : State) : Outcome :=
  onBus s <| busRead s ctrlMeasAddr 1 fun s r =>
    decodeModeInto s (byteAt r 0) { byte := byteAt r 0 }

/-- READ_CHIP_ID (43_bus_commands.md R243): the value is not checked. -/
def execReadChipId (s : State) : Outcome :=
  onBus s <| busRead s chipIdAddr 1 fun s r => done s { byte := byteAt r 0 }

/-- A register write and its result: `byte` is the image written (43_bus_commands.md R244 to
R247). -/
def writeImage (s : State) (addr : RegAddr) (v : Byte) : Reply :=
  busWrite s addr v fun s => done s { byte := v }

/-- WRITE_CTRL_HUM (43_bus_commands.md R244). -/
def execWriteCtrlHum (osH : Nat) (s : State) : Outcome :=
  onBus s (writeImage s ctrlHumAddr (ctrlHumImage osH))

/-- WRITE_CTRL_MEAS (43_bus_commands.md R245). -/
def execWriteCtrlMeas (osT osP mode : Nat) (s : State) : Outcome :=
  onBus s (writeImage s ctrlMeasAddr (ctrlMeasImage osT osP mode))

/-- WRITE_CONFIG (43_bus_commands.md R246). -/
def execWriteConfig (standby filter : Nat) (s : State) : Outcome :=
  onBus s (writeImage s configAddr (configImage standby filter))

/-- SOFT_RESET (43_bus_commands.md R247): the store and its flag keep their values. -/
def execSoftReset (s : State) : Outcome :=
  onBus s (writeImage s softResetAddr softResetValue)

end Sys2Proof.Machine
end

