-- ==== Sys2Proof/Machine/Calibration.lean ====
section
/-! DEFINITION. The Calibration Store load (40_calibration.md). -/

namespace Sys2Proof.Machine

/-- `le16(lo, hi) = lo | (hi << 8)` (30_encoding.md R96). -/
def le16 (lo hi : Byte) : BitVec 16 := lo.setWidth 16 ||| (hi.setWidth 16 <<< 8)

/-- A u_16 coefficient at bytes i and i + 1 of a span (30_encoding.md R95, R96). -/
def coefU16 (span : List Byte) (i : Nat) : Int := (le16 (byteAt span i) (byteAt span (i + 1))).toNat

/-- An s_16 coefficient at bytes i and i + 1 of a span: `sext_16` (30_encoding.md R95, R96). -/
def coefS16 (span : List Byte) (i : Nat) : Int := (le16 (byteAt span i) (byteAt span (i + 1))).toInt

/-- A 12-bit coefficient: zero-extended, or sign-extended under `H45_SIGN_EXTEND`
(30_encoding.md R96). -/
def coef12 (signExtend : Bool) (v : BitVec 12) : Int := if signExtend then v.toInt else v.toNat

/-- `H4 = (e[3] << 4) | (e[4] & 0x0F)` (30_encoding.md R96). -/
def h4Bits (e3 e4 : Byte) : BitVec 12 := (e3.setWidth 12 <<< 4) ||| (e4 &&& 0x0F#8).setWidth 12

/-- `H5 = (e[5] << 4) | (e[4] >> 4)` (30_encoding.md R96). -/
def h5Bits (e5 e4 : Byte) : BitVec 12 := (e5.setWidth 12 <<< 4) ||| (e4 >>> 4).setWidth 12

/-- The 18 coefficients from span A, the byte at 0xA1 and span B (30_encoding.md R95, R96). -/
def assemble (signExtend : Bool) (a h e : List Byte) : Calib where
  t1 := coefU16 a 0
  t2 := coefS16 a 2
  t3 := coefS16 a 4
  p1 := coefU16 a 6
  p2 := coefS16 a 8
  p3 := coefS16 a 10
  p4 := coefS16 a 12
  p5 := coefS16 a 14
  p6 := coefS16 a 16
  p7 := coefS16 a 18
  p8 := coefS16 a 20
  p9 := coefS16 a 22
  h1 := (byteAt h 0).toNat
  h2 := coefS16 e 0
  h3 := (byteAt e 2).toNat
  h4 := coef12 signExtend (h4Bits (byteAt e 3) (byteAt e 4))
  h5 := coef12 signExtend (h5Bits (byteAt e 5) (byteAt e 4))
  h6 := (byteAt e 6).toInt

/-- The 18 coefficients in the order of their index (10_state.md R22). -/
def coefList (c : Calib) : List Int :=
  [c.t1, c.t2, c.t3, c.p1, c.p2, c.p3, c.p4, c.p5, c.p6, c.p7, c.p8, c.p9,
   c.h1, c.h2, c.h3, c.h4, c.h5, c.h6]

/-- `x[i]` (00_scope.md R10): the coefficient of an index. -/
def coef (c : Calib) (i : Fin 18) : Int := (coefList c).getD i.val 0

/-- The commit of a complete load: all 18 registers and the flag together (40_calibration.md R123,
R124). -/
def commitCalib (s : State) (a h e : List Byte) : State :=
  { s with calib := assemble s.params.h45SignExtend a h e, calibValid := true }

/-- The three reads and the commit (40_calibration.md R120, R121). -/
def loadSpans (s : State) : Reply :=
  busRead s calSpanA calSpanALen fun s a =>
    busRead s calSpanH1 calSpanH1Len fun s h =>
      busRead s calSpanB calSpanBLen fun s e => done (commitCalib s a h e) {}

/-- LOAD_CALIB (40_calibration.md R120); locked once the store is valid (R125). -/
def execLoadCalib (s : State) : Outcome :=
  if s.calibValid then deliver (raise s .calibrationLocked) else onBus s (loadSpans s)

end Sys2Proof.Machine
end

