-- ==== Sys2Proof/Machine/Codec.lean ====
section
/-! DEFINITION. The Configuration Encoder, the decoders and the burst parser (41_codec.md): pure
functions of the operands, in every state, without a transaction and without an error (R153). -/

namespace Sys2Proof.Machine

/-- ENC_OS (41_codec.md R141). -/
def execEncOs (ord : Nat) (s : State) : Outcome :=
  deliver (done s { code := codeByte (osCode ord) })

/-- ENC_OS_COUNT (41_codec.md R142). -/
def execEncOsCount (count : Nat) (s : State) : Outcome :=
  deliver (done s { code := codeByte (osCountCode count) })

/-- ENC_MODE (41_codec.md R143). -/
def execEncMode (ord : Nat) (s : State) : Outcome :=
  deliver (done s { code := codeByte (modeCode ord) })

/-- ENC_FILTER (41_codec.md R144). -/
def execEncFilter (ord : Nat) (s : State) : Outcome :=
  deliver (done s { code := codeByte (fltCode ord) })

/-- ENC_STANDBY (41_codec.md R145). -/
def execEncStandby (ord : Nat) (s : State) : Outcome :=
  deliver (done s { code := codeByte (sbCode ord) })

/-- ENC_CTRL_MEAS (41_codec.md R146). -/
def execEncCtrlMeas (osT osP mode : Nat) (s : State) : Outcome :=
  deliver (done s { byte := ctrlMeasImage osT osP mode })

/-- ENC_CONFIG (41_codec.md R147). -/
def execEncConfig (standby filter : Nat) (s : State) : Outcome :=
  deliver (done s { byte := configImage standby filter })

/-- ENC_CTRL_HUM (41_codec.md R148). -/
def execEncCtrlHum (osH : Nat) (s : State) : Outcome :=
  deliver (done s { byte := ctrlHumImage osH })

/-- DEC_MODE (41_codec.md R149). -/
def execDecMode (image : Byte) (s : State) : Outcome :=
  deliver (decodeModeInto s image {})

/-- DEC_BUSY (41_codec.md R150). -/
def execDecBusy (image : Byte) (s : State) : Outcome :=
  deliver (done s { flag := busyFlag image })

/-- PARSE_BURST (41_codec.md R151). -/
def execParseBurst (burst : Burst) (s : State) : Outcome :=
  deliver (done s (withRaw burst {}))

end Sys2Proof.Machine
end

