-- ==== Sys2Proof/Machine/Dispatch.lean ====
section
/-! DEFINITION. One arm per command (30_encoding.md R82), each one direct call of its meaning. -/

namespace Sys2Proof.Machine

def exec (i : Instr) (s : State) : Host.Outcome State Fault Refusal :=
  match i with
  | .loadCalib => Sys2Proof.Machine.execLoadCalib s
  | .compT rawT => Sys2Proof.Machine.execCompT rawT s
  | .compP rawP tfine => Sys2Proof.Machine.execCompP rawP tfine s
  | .compH rawH tfine => Sys2Proof.Machine.execCompH rawH tfine s
  | .compAll burst offset => Sys2Proof.Machine.execCompAll burst offset s
  | .readAll offset => Sys2Proof.Machine.execReadAll offset s
  | .readBusy => Sys2Proof.Machine.execReadBusy s
  | .readMode => Sys2Proof.Machine.execReadMode s
  | .readChipId => Sys2Proof.Machine.execReadChipId s
  | .writeCtrlHum osH => Sys2Proof.Machine.execWriteCtrlHum osH s
  | .writeCtrlMeas osT osP mode => Sys2Proof.Machine.execWriteCtrlMeas osT osP mode s
  | .writeConfig standby filter => Sys2Proof.Machine.execWriteConfig standby filter s
  | .softReset => Sys2Proof.Machine.execSoftReset s
  | .encOs ord => Sys2Proof.Machine.execEncOs ord s
  | .encOsCount count => Sys2Proof.Machine.execEncOsCount count s
  | .encMode ord => Sys2Proof.Machine.execEncMode ord s
  | .encFilter ord => Sys2Proof.Machine.execEncFilter ord s
  | .encStandby ord => Sys2Proof.Machine.execEncStandby ord s
  | .encCtrlMeas osT osP mode => Sys2Proof.Machine.execEncCtrlMeas osT osP mode s
  | .encConfig standby filter => Sys2Proof.Machine.execEncConfig standby filter s
  | .encCtrlHum osH => Sys2Proof.Machine.execEncCtrlHum osH s
  | .decMode image => Sys2Proof.Machine.execDecMode image s
  | .decBusy image => Sys2Proof.Machine.execDecBusy image s
  | .parseBurst burst => Sys2Proof.Machine.execParseBurst burst s

end Sys2Proof.Machine
end

