-- ==== Sys2Proof/Machine/Step.lean ====
section
/-! DEFINITION. One step of the machine: the next input of the port, performed to completion
(10_state.md R21, 00_scope.md R5). -/

namespace Sys2Proof.Machine

/-- One command performed: decoded and executed, or reported as illegal (30_encoding.md R103). -/
def perform (cmd : Command) (s : State) : Host.Outcome State Fault Refusal :=
  match decode cmd with
  | .ok i => exec i s
  | .error _ => illegalCommand s

/-- The step. With nothing on the port the block idles: it has no background activity
(00_scope.md R5; log 2). -/
def step (s : State) : Host.Outcome State Fault Refusal :=
  match nextInput s with
  | none => .next s
  | some (.blockReset, s') => .next (blockReset s')
  | some (.command cmd, s') => perform cmd s'

/-- The state with the command of a table word presented next (log 3). -/
def State.withFetchWord (s : State) (nbits w : Nat) : State := present s (commandOfTableWord nbits w)

end Sys2Proof.Machine
end

