-- ==== Sys2Proof/Machine/Assembler.lean ====
section
/-! DEFINITION. The host's assembler (30_encoding.md R87, R88): one line of text to the commands it
stands for. It is not part of the block, which sees only the commands (log 19). -/

namespace Sys2Proof.Machine

/-- Why a line is rejected. -/
inductive AsmError where
  | unknownMnemonic
  | operandCount
  | badOperand
deriving DecidableEq, Repr

/-- Where an operand of the text goes. -/
inductive Slot where
  | a
  | b
  | c
deriving DecidableEq, Repr

/-- How an operand of the text is read: an integer, or a binary32. -/
inductive OperandKind where
  | int
  | float
deriving DecidableEq, Repr

/-- One row: mnemonic, opcode, and the operands the command uses, in the order of the text. -/
structure AsmRow where
  mnemonic : String
  opcode : Byte
  operands : List (Slot × OperandKind)
deriving DecidableEq, Repr

/-- The mnemonics of 30_encoding.md R82 with the operands of R81. -/
def asmTable : List AsmRow :=
  [⟨"LOAD_CALIB", 0x10#8, []⟩,
   ⟨"COMP_T", 0x20#8, [(.a, .int)]⟩,
   ⟨"COMP_P", 0x21#8, [(.a, .int), (.b, .int)]⟩,
   ⟨"COMP_H", 0x22#8, [(.a, .int), (.b, .int)]⟩,
   ⟨"COMP_ALL", 0x23#8, [(.a, .int), (.b, .int), (.c, .float)]⟩,
   ⟨"READ_ALL", 0x30#8, [(.c, .float)]⟩,
   ⟨"READ_BUSY", 0x31#8, []⟩,
   ⟨"READ_MODE", 0x32#8, []⟩,
   ⟨"READ_CHIP_ID", 0x33#8, []⟩,
   ⟨"WRITE_CTRL_HUM", 0x38#8, [(.a, .int)]⟩,
   ⟨"WRITE_CTRL_MEAS", 0x39#8, [(.a, .int), (.b, .int), (.c, .int)]⟩,
   ⟨"WRITE_CONFIG", 0x3A#8, [(.a, .int), (.b, .int)]⟩,
   ⟨"SOFT_RESET", 0x3B#8, []⟩,
   ⟨"ENC_OS", 0x40#8, [(.a, .int)]⟩,
   ⟨"ENC_OS_COUNT", 0x41#8, [(.a, .int)]⟩,
   ⟨"ENC_MODE", 0x42#8, [(.a, .int)]⟩,
   ⟨"ENC_FILTER", 0x43#8, [(.a, .int)]⟩,
   ⟨"ENC_STANDBY", 0x44#8, [(.a, .int)]⟩,
   ⟨"ENC_CTRL_MEAS", 0x45#8, [(.a, .int), (.b, .int), (.c, .int)]⟩,
   ⟨"ENC_CONFIG", 0x46#8, [(.a, .int), (.b, .int)]⟩,
   ⟨"ENC_CTRL_HUM", 0x47#8, [(.a, .int)]⟩,
   ⟨"DEC_MODE", 0x48#8, [(.a, .int)]⟩,
   ⟨"DEC_BUSY", 0x49#8, [(.a, .int)]⟩,
   ⟨"PARSE_BURST", 0x4A#8, [(.a, .int), (.b, .int)]⟩]

/-- The text cut at every `sep`. -/
def splitChars (sep : Char) : List Char → List (List Char)
  | [] => [[]]
  | x :: xs =>
    if x = sep then [] :: splitChars sep xs
    else match splitChars sep xs with
      | [] => [[x]]
      | w :: ws => (x :: w) :: ws

/-- Blank characters. -/
def isBlank (x : Char) : Bool := x = ' ' || x = '\t'

/-- The text without blanks at either end. -/
def trimChars (l : List Char) : List Char :=
  ((l.dropWhile isBlank).reverse.dropWhile isBlank).reverse

/-- The line up to its comment, which begins at `;` (30_encoding.md R87). -/
def dropComment (l : List Char) : List Char := l.takeWhile (· != ';')

/-- The value of a digit in a base up to 16. -/
def digitValue (base : Nat) (x : Char) : Option Nat :=
  let n := x.toNat
  let v := if 48 ≤ n ∧ n ≤ 57 then n - 48
    else if 65 ≤ n ∧ n ≤ 70 then n - 55
    else if 97 ≤ n ∧ n ≤ 102 then n - 87
    else 16
  if v < base then some v else none

/-- The value of a digit string after `acc`. -/
def digitsFrom (base : Nat) : Nat → List Char → Option Nat
  | acc, [] => some acc
  | acc, x :: xs =>
    match digitValue base x with
    | some d => digitsFrom base (acc * base + d) xs
    | none => none

/-- The value of a digit string with at least one digit. -/
def digits (base : Nat) (l : List Char) : Option Nat :=
  match l with
  | [] => none
  | _ => digitsFrom base 0 l

/-- A word given as a number, if it fits 32 bits. -/
def wordIfFits (v : Nat) : Option Word := if v < 2 ^ 32 then some (BitVec.ofNat 32 v) else none

/-- An integer operand: decimal or `0x` hex; a negative one is decimal and becomes its 32-bit two's
complement (30_encoding.md R87). -/
def parseInt (l : List Char) : Option Word :=
  match l with
  | '0' :: 'x' :: hex => (digits 16 hex).bind wordIfFits
  | '-' :: dec =>
    (digits 10 dec).bind fun v => if v ≤ 2 ^ 31 then some (BitVec.ofInt 32 (-(v : Int))) else none
  | dec => (digits 10 dec).bind wordIfFits

/-- A decimal literal without its sign: `RNE32` of the exact value (30_encoding.md R87). A written minus
zero is +0.0 (00_scope.md R13); a nonzero negative literal that rounds to zero is -0.0, which R13 leaves
open (PRESUMED, log 13, log 19). -/
def parseDecimal (sign : Int) (l : List Char) : Option Word :=
  match splitChars '.' l with
  | [whole] => (digits 10 whole).map fun v => rne32 (sign * v) 1
  | [whole, frac] =>
    (digits 10 (whole ++ frac)).map fun v => rne32 (sign * v) (10 ^ frac.length)
  | _ => none

/-- A float operand: an `0x` bit pattern, or a decimal literal (30_encoding.md R87). -/
def parseFloat (l : List Char) : Option Word :=
  match l with
  | '0' :: 'x' :: hex => (digits 16 hex).bind wordIfFits
  | '-' :: dec => parseDecimal (-1) dec
  | dec => parseDecimal 1 dec

/-- One operand of the text by its kind. -/
def parseOperand (k : OperandKind) (l : List Char) : Option Word :=
  match k with
  | .int => parseInt l
  | .float => parseFloat l

/-- The command with one operand set. -/
def setSlot (cmd : Command) (slot : Slot) (w : Word) : Command :=
  match slot with
  | .a => { cmd with a := w }
  | .b => { cmd with b := w }
  | .c => { cmd with c := w }

/-- The operands of the text put into the command. -/
def fillOperands : Command → List (Slot × OperandKind) → List (List Char) → Except AsmError Command
  | cmd, [], [] => .ok cmd
  | cmd, (slot, k) :: ks, t :: ts =>
    match parseOperand k t with
    | some w => fillOperands (setSlot cmd slot w) ks ts
    | none => .error .badOperand
  | _, [], _ :: _ => .error .operandCount
  | _, _ :: _, [] => .error .operandCount

/-- The operand texts of a line's rest. -/
def operandTexts (rest : List Char) : List (List Char) :=
  match trimChars rest with
  | [] => []
  | l => (splitChars ',' l).map trimChars

/-- The six integer operands of `CONFIGURE` (30_encoding.md R88). -/
def parseConfigure (texts : List (List Char)) : Except AsmError (List Command) :=
  match texts.mapM parseInt with
  | some [tos, pos, hos, mode, sb, flt] =>
    .ok ((configure tos.toNat pos.toNat hos.toNat mode.toNat sb.toNat flt.toNat).map encode)
  | some _ => .error .operandCount
  | none => .error .badOperand

/-- A line without its comment and outer blanks: a mnemonic, then its operands. -/
def assembleStatement (l : List Char) : Except AsmError (List Command) :=
  let name := l.takeWhile fun x => !isBlank x
  let texts := operandTexts (l.dropWhile fun x => !isBlank x)
  if name = "CONFIGURE".toList then parseConfigure texts
  else
    match asmTable.find? fun r => r.mnemonic.toList = name with
    | none => .error .unknownMnemonic
    | some r =>
      match fillOperands ⟨r.opcode, 0, 0, 0⟩ r.operands texts with
      | .ok cmd => .ok [cmd]
      | .error e => .error e

/-- One line of a host program to its commands: none for a blank or comment line
(30_encoding.md R87). -/
def assembleLine (line : String) : Except AsmError (List Command) :=
  match trimChars (dropComment line.toList) with
  | [] => .ok []
  | l => assembleStatement l

end Sys2Proof.Machine
end

