-- ==== Sys2Proof/Safety.lean ====
section
/-! DEFINITION. What the claims are stated in: the ranges of the store, where its contents come from,
which results, events and traces are legal, the closed forms of the compensation stages, and runs. -/

namespace Sys2Proof.Machine

/-! ### The Calibration Store -/

/-- The value range of each coefficient register (10_state.md R22). -/
def coefRange (signExtend : Bool) (i : Fin 18) : Int × Int :=
  match i.val with
  | 0 => (0, 65535)
  | 3 => (0, 65535)
  | 12 => (0, 255)
  | 14 => (0, 255)
  | 15 => if signExtend then (-2048, 2047) else (0, 4095)
  | 16 => if signExtend then (-2048, 2047) else (0, 4095)
  | 17 => (-128, 127)
  | _ => (-32768, 32767)

/-- Every coefficient register holds a value of its type (10_state.md R22, R23). -/
abbrev StoreInRange (signExtend : Bool) (c : Calib) : Prop :=
  ∀ i : Fin 18, (coefRange signExtend i).1 ≤ coef c i ∧ coef c i ≤ (coefRange signExtend i).2

/-- The observation is that of a LOAD_CALIB that read all three spans and returned OK, and the store
holds what those bytes assemble to (10_state.md R24). -/
def LoadedBy (s : State) (o : Observation) : Prop :=
  ∃ a h e : List Byte, a.length = 24 ∧ h.length = 1 ∧ e.length = 7 ∧ o.result = {} ∧
    o.trace = [.read s.params.devAddr 0x88#8 24 (.ok a), .read s.params.devAddr 0xA1#8 1 (.ok h),
      .read s.params.devAddr 0xE1#8 7 (.ok e)] ∧
    s.calib = assemble s.params.h45SignExtend a h e

/-- The observation is a load that committed: three transactions and status OK. -/
def loadCommitted (o : Observation) : Bool := o.trace.length == 3 && o.result.status == 0#8

/-- Where the store's contents come from: reset while `CALIB_VALID` is 0, and otherwise the one
committed load of this session (10_state.md R24). -/
def StoreProvenance (s : State) : Prop :=
  (s.calibValid = false → s.calib = Calib.zero ∧ s.observed.countP loadCommitted = 0) ∧
  (s.calibValid = true →
    s.observed.countP loadCommitted = 1 ∧ ∃ o ∈ s.observed, LoadedBy s o)

/-! ### Results, events and traces -/

/-- The (address, count) pairs the block reads (20_memory.md R51, R60). -/
def legalReads : List (RegAddr × Nat) :=
  [(0x88#8, 24), (0xA1#8, 1), (0xE1#8, 7), (0xF7#8, 8), (0xF3#8, 1), (0xF4#8, 1), (0xD0#8, 1)]

/-- The (address, value) pairs the block writes: only images the encoders can produce
(20_memory.md R51, 30_encoding.md R101). -/
def LegalWrite (addr : RegAddr) (v : Byte) : Prop :=
  (addr = 0xF2#8 ∧ v.toNat ≤ 5) ∨
  (addr = 0xF4#8 ∧ (v >>> 5).toNat ≤ 5 ∧ ((v >>> 2) &&& 7#8).toNat ≤ 5 ∧ v &&& 3#8 ≠ 2#8) ∨
  (addr = 0xF5#8 ∧ ((v >>> 2) &&& 7#8).toNat ≤ 4 ∧ v &&& 3#8 = 0#8) ∨
  (addr = 0xE0#8 ∧ v = 0xB6#8)

/-- An event the block may issue, at its own device address (20_memory.md R51, R55, R60, R70). -/
def LegalEvent (dev : Nat) : BusEvent → Prop
  | .read d addr n _ => d = dev ∧ (addr, n) ∈ legalReads
  | .write d addr v _ => d = dev ∧ LegalWrite addr v

/-- The transaction failed, a reply of the wrong length included (40_calibration.md R122). -/
def eventFailed : BusEvent → Bool
  | .read _ _ n answer => (acceptBytes n answer).isNone
  | .write _ _ _ answer => answer == .fail

/-- The status codes, and the zeroing of an erroring command's or stage's fields (00_scope.md R12,
30_encoding.md R84, R85), with the ranges of `h_q10` and `mode` (30_encoding.md R84). -/
def LegalResult (r : Result) : Prop :=
  r.status.toNat ≤ 6 ∧ (r.status ≠ 0#8 → r = { status := r.status }) ∧
  (r.pStatus = 0#8 ∨ ((r.pStatus = 3#8 ∨ r.pStatus = 5#8) ∧ r.pQ8 = 0#64 ∧ r.pF32 = 0#32)) ∧
  (r.hStatus = 0#8 ∨ (r.hStatus = 5#8 ∧ r.hQ10 = 0#32 ∧ r.hF32 = 0#32)) ∧
  r.hQ10.toNat ≤ 102400 ∧ r.mode.toNat ≤ 2

/-- BUS_ERROR is reported exactly when a transaction failed, and nothing follows a failed one
(43_bus_commands.md R248). -/
def LegalTrace (o : Observation) : Prop :=
  (o.result.status = 1#8 ↔ ∃ e ∈ o.trace, eventFailed e = true) ∧
  (∀ e ∈ o.trace.dropLast, eventFailed e = false)

/-- A (result, trace) pair the block may show. -/
def LegalObservation (dev : Nat) (o : Observation) : Prop :=
  LegalResult o.result ∧ LegalTrace o ∧ ∀ e ∈ o.trace, LegalEvent dev e

/-- Everything the block has shown in this session is legal. -/
def ObservationsLegal (s : State) : Prop :=
  ∀ o ∈ s.observed, LegalObservation s.params.devAddr o

/-! ### Families of commands -/

/-- The commands of 41_codec.md. -/
def isCodec : Instr → Bool
  | .loadCalib => false
  | .compT _ => false
  | .compP _ _ => false
  | .compH _ _ => false
  | .compAll _ _ => false
  | .readAll _ => false
  | .readBusy => false
  | .readMode => false
  | .readChipId => false
  | .writeCtrlHum _ => false
  | .writeCtrlMeas _ _ _ => false
  | .writeConfig _ _ => false
  | .softReset => false
  | .encOs _ => true
  | .encOsCount _ => true
  | .encMode _ => true
  | .encFilter _ => true
  | .encStandby _ => true
  | .encCtrlMeas _ _ _ => true
  | .encConfig _ _ => true
  | .encCtrlHum _ => true
  | .decMode _ => true
  | .decBusy _ => true
  | .parseBurst _ => true

/-- The commands that reach the sensor (40_calibration.md, 43_bus_commands.md). -/
def isBus : Instr → Bool
  | .loadCalib => true
  | .compT _ => false
  | .compP _ _ => false
  | .compH _ _ => false
  | .compAll _ _ => false
  | .readAll _ => true
  | .readBusy => true
  | .readMode => true
  | .readChipId => true
  | .writeCtrlHum _ => true
  | .writeCtrlMeas _ _ _ => true
  | .writeConfig _ _ => true
  | .softReset => true
  | .encOs _ => false
  | .encOsCount _ => false
  | .encMode _ => false
  | .encFilter _ => false
  | .encStandby _ => false
  | .encCtrlMeas _ _ _ => false
  | .encConfig _ _ => false
  | .encCtrlHum _ => false
  | .decMode _ => false
  | .decBusy _ => false
  | .parseBurst _ => false

/-- The commands that need a valid store (42_compensation.md R187, 43_bus_commands.md R240). -/
def needsCalib : Instr → Bool
  | .loadCalib => false
  | .compT _ => true
  | .compP _ _ => true
  | .compH _ _ => true
  | .compAll _ _ => true
  | .readAll _ => true
  | .readBusy => false
  | .readMode => false
  | .readChipId => false
  | .writeCtrlHum _ => false
  | .writeCtrlMeas _ _ _ => false
  | .writeConfig _ _ => false
  | .softReset => false
  | .encOs _ => false
  | .encOsCount _ => false
  | .encMode _ => false
  | .encFilter _ => false
  | .encStandby _ => false
  | .encCtrlMeas _ _ _ => false
  | .encConfig _ _ => false
  | .encCtrlHum _ => false
  | .decMode _ => false
  | .decBusy _ => false
  | .parseBurst _ => false

/-- The register a command writes and the image it writes there (20_memory.md R51). -/
def registerWritten : Instr → Option (RegAddr × Byte)
  | .loadCalib => none
  | .compT _ => none
  | .compP _ _ => none
  | .compH _ _ => none
  | .compAll _ _ => none
  | .readAll _ => none
  | .readBusy => none
  | .readMode => none
  | .readChipId => none
  | .writeCtrlHum osH => some (0xF2#8, ctrlHumImage osH)
  | .writeCtrlMeas osT osP mode => some (0xF4#8, ctrlMeasImage osT osP mode)
  | .writeConfig standby filter => some (0xF5#8, configImage standby filter)
  | .softReset => some (0xE0#8, 0xB6#8)
  | .encOs _ => none
  | .encOsCount _ => none
  | .encMode _ => none
  | .encFilter _ => none
  | .encStandby _ => none
  | .encCtrlMeas _ _ _ => none
  | .encConfig _ _ => none
  | .encCtrlHum _ => none
  | .decMode _ => none
  | .decBusy _ => none
  | .parseBurst _ => none

/-- The result record a command answers in a state. -/
def resultOf (i : Instr) (s : State) : Option Result :=
  match exec i s with
  | .next t => t.observed.getLast?.map Observation.result
  | _ => none

/-! ### Operand bits -/

/-- Which bits of A, B and C a command's opcode uses (30_encoding.md R81, R104). -/
def operandMask (op : Byte) : Word × Word × Word :=
  match op with
  | 0x20#8 => (0xFFFFF#32, 0, 0)
  | 0x21#8 => (0xFFFFF#32, BitVec.allOnes 32, 0)
  | 0x22#8 => (0xFFFF#32, BitVec.allOnes 32, 0)
  | 0x23#8 => (BitVec.allOnes 32, BitVec.allOnes 32, BitVec.allOnes 32)
  | 0x30#8 => (0, 0, BitVec.allOnes 32)
  | 0x38#8 => (BitVec.allOnes 32, 0, 0)
  | 0x39#8 => (BitVec.allOnes 32, BitVec.allOnes 32, BitVec.allOnes 32)
  | 0x3A#8 => (BitVec.allOnes 32, BitVec.allOnes 32, 0)
  | 0x40#8 => (BitVec.allOnes 32, 0, 0)
  | 0x41#8 => (BitVec.allOnes 32, 0, 0)
  | 0x42#8 => (BitVec.allOnes 32, 0, 0)
  | 0x43#8 => (BitVec.allOnes 32, 0, 0)
  | 0x44#8 => (BitVec.allOnes 32, 0, 0)
  | 0x45#8 => (BitVec.allOnes 32, BitVec.allOnes 32, BitVec.allOnes 32)
  | 0x46#8 => (BitVec.allOnes 32, BitVec.allOnes 32, 0)
  | 0x47#8 => (BitVec.allOnes 32, 0, 0)
  | 0x48#8 => (0xFF#32, 0, 0)
  | 0x49#8 => (0xFF#32, 0, 0)
  | 0x4A#8 => (BitVec.allOnes 32, BitVec.allOnes 32, 0)
  | _ => (0, 0, 0)

/-- The command with every bit its opcode does not use cleared. -/
def maskCommand (cmd : Command) : Command where
  opcode := cmd.opcode
  a := cmd.a &&& (operandMask cmd.opcode).1
  b := cmd.b &&& (operandMask cmd.opcode).2.1
  c := cmd.c &&& (operandMask cmd.opcode).2.2

/-! ### Closed forms of the compensation stages -/

/-- The value of 42_compensation.md R188, the divisions being floors by powers of two. -/
def tempValue (c : Calib) (r : Int) : Int :=
  ((r / 8 - 2 * c.t1) * c.t2) / 2 ^ 11 + (((r / 16 - c.t1) * (r / 16 - c.t1)) / 2 ^ 12 * c.t3) / 2 ^ 14

/-- The checked intermediates of 42_compensation.md R188, the result last. -/
def tempIntermediates (c : Calib) (r : Int) : List Int :=
  [r / 8, 2 * c.t1, r / 8 - 2 * c.t1, (r / 8 - 2 * c.t1) * c.t2, r / 16 - c.t1,
   (r / 16 - c.t1) * (r / 16 - c.t1),
   ((r / 16 - c.t1) * (r / 16 - c.t1)) / 2 ^ 12 * c.t3, tempValue c r]

/-- `v1` of the first line of 42_compensation.md R191. -/
def presBase (t : Int) : Int := t - 128000

/-- `v2` before the divisor (42_compensation.md R191). -/
def presOffset (c : Calib) (t : Int) : Int :=
  presBase t * presBase t * c.p6 + presBase t * c.p5 * 2 ^ 17 + c.p4 * 2 ^ 35

/-- `v1` before the step that makes it the divisor (42_compensation.md R191, R192). -/
def presSlope (c : Calib) (t : Int) : Int :=
  (presBase t * presBase t * c.p3) / 2 ^ 8 + presBase t * c.p2 * 2 ^ 12

/-- The divisor (42_compensation.md R192). -/
def presDivisor (c : Calib) (t : Int) : Int := ((2 ^ 47 + presSlope c t) * c.p1) / 2 ^ 33

/-- The checked intermediates before the zero test (42_compensation.md R191). -/
def presBefore (c : Calib) (t : Int) : List Int :=
  [presBase t, presBase t * presBase t, presBase t * presBase t * c.p6, presBase t * c.p5,
   presBase t * c.p5 * 2 ^ 17, presBase t * presBase t * c.p6 + presBase t * c.p5 * 2 ^ 17,
   c.p4 * 2 ^ 35, presOffset c t, presBase t * presBase t * c.p3, presBase t * c.p2,
   presBase t * c.p2 * 2 ^ 12, presSlope c t, 2 ^ 47 + presSlope c t,
   (2 ^ 47 + presSlope c t) * c.p1]

/-- The numerator of the division (42_compensation.md R191). -/
def presNumerator (c : Calib) (r t : Int) : Int :=
  ((1048576 - r) * 2 ^ 31 - presOffset c t) * 3125

/-- The quotient `p`, truncated toward zero (42_compensation.md R181, R191). -/
def presQuotient (c : Calib) (r t : Int) : Int := (presNumerator c r t).tdiv (presDivisor c t)

/-- The second-order term of P9 (42_compensation.md R191). -/
def presSquare (c : Calib) (r t : Int) : Int :=
  (c.p9 * (presQuotient c r t / 2 ^ 13) * (presQuotient c r t / 2 ^ 13)) / 2 ^ 25

/-- The first-order term of P8 (42_compensation.md R191). -/
def presLinear (c : Calib) (r t : Int) : Int := (c.p8 * presQuotient c r t) / 2 ^ 19

/-- The value of 42_compensation.md R191. -/
def presValue (c : Calib) (r t : Int) : Int :=
  (presQuotient c r t + presSquare c r t + presLinear c r t) / 2 ^ 8 + c.p7 * 2 ^ 4

/-- The checked intermediates after the zero test, the result last (42_compensation.md R191). -/
def presAfter (c : Calib) (r t : Int) : List Int :=
  [1048576 - r, (1048576 - r) * 2 ^ 31, (1048576 - r) * 2 ^ 31 - presOffset c t,
   presNumerator c r t, c.p9 * (presQuotient c r t / 2 ^ 13),
   c.p9 * (presQuotient c r t / 2 ^ 13) * (presQuotient c r t / 2 ^ 13),
   c.p8 * presQuotient c r t, presQuotient c r t + presSquare c r t,
   presQuotient c r t + presSquare c r t + presLinear c r t, c.p7 * 2 ^ 4, presValue c r t]

/-- `v` of the first line of 42_compensation.md R194. -/
def humBase (t : Int) : Int := t - 76800

/-- `x1` (42_compensation.md R194). -/
def humX1 (c : Calib) (r t : Int) : Int :=
  (r * 2 ^ 14 - c.h4 * 2 ^ 20 - c.h5 * humBase t + 16384) / 2 ^ 15

/-- `y2` (42_compensation.md R194). -/
def humY2 (c : Calib) (t : Int) : Int := humBase t * c.h3 / 2 ^ 11 + 32768

/-- `y3` (42_compensation.md R194). -/
def humY3 (c : Calib) (t : Int) : Int := humBase t * c.h6 / 2 ^ 10 * humY2 c t / 2 ^ 10 + 2097152

/-- `y4` (42_compensation.md R194). -/
def humY4 (c : Calib) (t : Int) : Int := (humY3 c t * c.h2 + 8192) / 2 ^ 14

/-- `x1 * y4` (42_compensation.md R194). -/
def humProduct (c : Calib) (r t : Int) : Int := humX1 c r t * humY4 c t

/-- The correction by H1 (42_compensation.md R194). -/
def humCorrection (c : Calib) (r t : Int) : Int :=
  humProduct c r t / 2 ^ 15 * (humProduct c r t / 2 ^ 15) / 2 ^ 7 * c.h1 / 2 ^ 4

/-- The value of 42_compensation.md R194: clamped to [0, 100 x 2^22], then shifted (R195). -/
def humValue (c : Calib) (r t : Int) : Int :=
  max 0 (min (humProduct c r t - humCorrection c r t) 419430400) / 2 ^ 12

/-- The checked intermediates of 42_compensation.md R194. -/
def humIntermediates (c : Calib) (r t : Int) : List Int :=
  [humBase t, r * 2 ^ 14, c.h4 * 2 ^ 20, r * 2 ^ 14 - c.h4 * 2 ^ 20, c.h5 * humBase t,
   r * 2 ^ 14 - c.h4 * 2 ^ 20 - c.h5 * humBase t,
   r * 2 ^ 14 - c.h4 * 2 ^ 20 - c.h5 * humBase t + 16384, humBase t * c.h6, humBase t * c.h3,
   humY2 c t, humBase t * c.h6 / 2 ^ 10 * humY2 c t, humY3 c t, humY3 c t * c.h2,
   humY3 c t * c.h2 + 8192, humProduct c r t,
   humProduct c r t / 2 ^ 15 * (humProduct c r t / 2 ^ 15),
   humProduct c r t / 2 ^ 15 * (humProduct c r t / 2 ^ 15) / 2 ^ 7 * c.h1,
   humProduct c r t - humCorrection c r t]

/-- All listed intermediates are s_w values (42_compensation.md R182). -/
def allFit (w : Nat) (l : List Int) : Bool := l.all (fitsS w)

/-! ### Runs -/

/-- `k` steps end in a next state: none of them stops. -/
def RunsOn (k : Nat) (s : State) : Prop := ∃ t, Host.Core.run core k s = .next t

/-- The state with the commands of a host program on the port, before what waits there. -/
def withProgram (s : State) (prog : List Instr) : State :=
  { s with inputs := prog.map (fun i => Input.command (encode i)) ++ s.inputs }

end Sys2Proof.Machine
end

