-- ==== Sys2Proof/Certificates/Slice0/Obligations.lean ====
section
/-! DEFINITION. The statements for the provers. Each docstring names the rule of spec/ it formalises.
`observe s r tr` is the state `s` with the (result, trace) pair added to what the host has been given,
so an equation `exec i s = .next (observe s' r tr)` states the instruction's frame too: every field of
the state but `observed` is that of `s'`. -/

open Sys2Proof Sys2Proof.Machine

/-! ## Encoding -/

/-- Every well-formed instruction decodes from its own encoding, with every operand at every value its
field admits (30_encoding.md R81, R82, R104). -/
def Obligations.DecodeEncodeRoundTrip : Prop :=
  ∀ i : Instr, i.wf = true → decode (encode i) = .ok i

/-- A decoded instruction is well formed and its encoding is the command it was decoded from with the
bits that opcode does not use cleared: no used bit is lost (30_encoding.md R81, R104). -/
def Obligations.EncodeDecodedIsMasked : Prop :=
  ∀ (cmd : Command) (i : Instr), decode cmd = .ok i → i.wf = true ∧ encode i = maskCommand cmd

/-- Operand bits outside the fields of 30_encoding.md R81 are ignored (R80, R104). -/
def Obligations.UnusedOperandBitsIgnored : Prop :=
  ∀ cmd cmd' : Command, maskCommand cmd = maskCommand cmd' → decode cmd = decode cmd'

/-- 30_encoding.md R103: decoding is total, a legal opcode decodes whatever the operands are, and every
other opcode is rejected by name. -/
def Obligations.DecodingIsTotal : Prop :=
  (∀ cmd : Command, cmd.opcode ∈ opcodes → ∃ i, decode cmd = .ok i ∧ opcodeOf i = cmd.opcode) ∧
  (∀ cmd : Command, cmd.opcode ∉ opcodes → decode cmd = .error (.illegalOpcode cmd.opcode))

/-- 30_encoding.md R82 with the operand assignment of R81: the row of each opcode, for every value of
the operands. -/
def Obligations.OpcodeRows : Prop :=
  ∀ a b c : Word,
    decode ⟨0x10#8, a, b, c⟩ = .ok .loadCalib ∧
    decode ⟨0x20#8, a, b, c⟩ = .ok (.compT (a.toNat % 2 ^ 20)) ∧
    decode ⟨0x21#8, a, b, c⟩ = .ok (.compP (a.toNat % 2 ^ 20) b.toInt) ∧
    decode ⟨0x22#8, a, b, c⟩ = .ok (.compH (a.toNat % 2 ^ 16) b.toInt) ∧
    decode ⟨0x23#8, a, b, c⟩ = .ok (.compAll (burstOfWords a b) c) ∧
    decode ⟨0x30#8, a, b, c⟩ = .ok (.readAll c) ∧
    decode ⟨0x31#8, a, b, c⟩ = .ok .readBusy ∧
    decode ⟨0x32#8, a, b, c⟩ = .ok .readMode ∧
    decode ⟨0x33#8, a, b, c⟩ = .ok .readChipId ∧
    decode ⟨0x38#8, a, b, c⟩ = .ok (.writeCtrlHum a.toNat) ∧
    decode ⟨0x39#8, a, b, c⟩ = .ok (.writeCtrlMeas a.toNat b.toNat c.toNat) ∧
    decode ⟨0x3A#8, a, b, c⟩ = .ok (.writeConfig a.toNat b.toNat) ∧
    decode ⟨0x3B#8, a, b, c⟩ = .ok .softReset ∧
    decode ⟨0x40#8, a, b, c⟩ = .ok (.encOs a.toNat) ∧
    decode ⟨0x41#8, a, b, c⟩ = .ok (.encOsCount a.toNat) ∧
    decode ⟨0x42#8, a, b, c⟩ = .ok (.encMode a.toNat) ∧
    decode ⟨0x43#8, a, b, c⟩ = .ok (.encFilter a.toNat) ∧
    decode ⟨0x44#8, a, b, c⟩ = .ok (.encStandby a.toNat) ∧
    decode ⟨0x45#8, a, b, c⟩ = .ok (.encCtrlMeas a.toNat b.toNat c.toNat) ∧
    decode ⟨0x46#8, a, b, c⟩ = .ok (.encConfig a.toNat b.toNat) ∧
    decode ⟨0x47#8, a, b, c⟩ = .ok (.encCtrlHum a.toNat) ∧
    decode ⟨0x48#8, a, b, c⟩ = .ok (.decMode (BitVec.ofNat 8 a.toNat)) ∧
    decode ⟨0x49#8, a, b, c⟩ = .ok (.decBusy (BitVec.ofNat 8 a.toNat)) ∧
    decode ⟨0x4A#8, a, b, c⟩ = .ok (.parseBurst (burstOfWords a b)) ∧
    burstOfWords a b =
      { b0 := BitVec.ofNat 8 (a.toNat / 2 ^ 24), b1 := BitVec.ofNat 8 (a.toNat / 2 ^ 16),
        b2 := BitVec.ofNat 8 (a.toNat / 2 ^ 8), b3 := BitVec.ofNat 8 a.toNat,
        b4 := BitVec.ofNat 8 (b.toNat / 2 ^ 24), b5 := BitVec.ofNat 8 (b.toNat / 2 ^ 16),
        b6 := BitVec.ofNat 8 (b.toNat / 2 ^ 8), b7 := BitVec.ofNat 8 b.toNat }

/-- Commands written out in 95_test_vectors.md and 30_encoding.md R87, decoded. -/
def Obligations.SpecCommandsDecode : Prop :=
  decode ⟨0x10#8, 0x00000000#32, 0x00000000#32, 0x00000000#32⟩ = .ok .loadCalib ∧
  decode ⟨0x20#8, 0x0007EED0#32, 0x00000000#32, 0x00000000#32⟩ = .ok (.compT 519888) ∧
  decode ⟨0x21#8, 0x000655AC#32, 0x0001F5A6#32, 0x00000000#32⟩ = .ok (.compP 415148 128422) ∧
  decode ⟨0x22#8, 0x00005DC0#32, 0xFFF4FE6B#32, 0x00000000#32⟩ = .ok (.compH 24000 (-721301)) ∧
  decode ⟨0x30#8, 0x00000000#32, 0x00000000#32, 0xBFC00000#32⟩ = .ok (.readAll 0xBFC00000#32) ∧
  decode ⟨0x39#8, 0x00000001#32, 0x00000001#32, 0x00000002#32⟩ = .ok (.writeCtrlMeas 1 1 2) ∧
  decode ⟨0x48#8, 0x00000102#32, 0x00000000#32, 0x00000000#32⟩ = .ok (.decMode 0x02#8)

/-! ## The step -/

/-- A step performs exactly the instruction its next command decodes to, in the state with that command
taken off the port; with nothing on the port it changes nothing (the latter is log 2, the model's
inference). -/
def Obligations.StepRunsDecodedCommand : Prop :=
  (∀ (s : State) (cmd : Command) (rest : List Input) (i : Instr),
    s.inputs = .command cmd :: rest → decode cmd = .ok i →
      step s = exec i { s with inputs := rest }) ∧
  (∀ s : State, s.inputs = [] → step s = .next s)

/-- 30_encoding.md R83: which 232 opcode values are illegal, and that a step on one returns
ILLEGAL_COMMAND with every other field 0, changes nothing else and issues no transaction. -/
def Obligations.IllegalOpcodeReported : Prop :=
  (∀ op : Byte, op ∉ opcodes ↔
    op.toNat ≤ 0x0F ∨ (0x11 ≤ op.toNat ∧ op.toNat ≤ 0x1F) ∨ (0x24 ≤ op.toNat ∧ op.toNat ≤ 0x2F) ∨
    (0x34 ≤ op.toNat ∧ op.toNat ≤ 0x37) ∨ (0x3C ≤ op.toNat ∧ op.toNat ≤ 0x3F) ∨ 0x4B ≤ op.toNat) ∧
  ((List.range 256).filter fun n => decide (BitVec.ofNat 8 n ∉ opcodes)).length = 232 ∧
  (∀ (s : State) (cmd : Command) (rest : List Input),
    s.inputs = .command cmd :: rest → cmd.opcode ∉ opcodes →
      step s = .next (observe { s with inputs := rest } { status := 4#8 } []))

/-- 10_state.md R30: a block reset clears `CALIB_VALID` and every coefficient register, they are clear in
the reset state, and no command can observe the coefficients while `CALIB_VALID` is 0. -/
def Obligations.ResetClearsStore : Prop :=
  State.reset.calibValid = false ∧ (∀ i : Fin 18, coef State.reset.calib i = 0) ∧
  (∀ (s : State) (rest : List Input), s.inputs = .blockReset :: rest →
    ∃ t, step s = .next t ∧ t.calibValid = false ∧ ∀ i : Fin 18, coef t.calib i = 0) ∧
  ∀ (i : Instr) (s t : State) (c : Calib), s.calibValid = false → exec i s = .next t →
    ∃ t', exec i { s with calib := c } = .next t' ∧ t'.observed = t.observed

/-- A block reset starts an empty trace and leaves the parameters, the sensor side and what waits on the
port alone (70_reset_and_hazards.md R320, R322). -/
def Obligations.BlockResetFrame : Prop :=
  ∀ (s : State) (rest : List Input), s.inputs = .blockReset :: rest →
    ∃ t, step s = .next t ∧ t.observed = [] ∧ t.inputs = rest ∧ t.params = s.params ∧
      t.oracle = s.oracle ∧ t.regs = s.regs ∧ t.hung = s.hung ∧ t.fresh = s.fresh

/-! ## Arithmetic primitives -/

/-- The integer operators of 00_scope.md R8 and 42_compensation.md R181: `>>` is the floor of the
division by 2^k, `<<` the multiplication by 2^k, `/` the division truncated toward zero. -/
def Obligations.IntegerOperators : Prop :=
  (∀ (a : Int) (k : Nat), asr a k * 2 ^ k ≤ a ∧ a < (asr a k + 1) * 2 ^ k) ∧
  (∀ (a : Int) (k : Nat), shl a k = a * 2 ^ k) ∧
  (∀ a b : Int, b ≠ 0 → divTrunc a b = a.sign * b.sign * ((a.natAbs / b.natAbs : Nat) : Int))

/-- 00_scope.md R13: `rne32` delivers the binary32 value nearest to the exact rational, on a tie one
with an even significand, and a finite one for every value below 2^127. Values of finite patterns are
counted in units of 2^-149. -/
def Obligations.RoundsToNearestEven : Prop :=
  ∀ (num : Int) (den : Nat), 0 < den → rne32 0 den = 0#32 ∧
    (num.natAbs < 2 ^ 127 * den → f32Exp (rne32 num den) ≠ 255) ∧
    (f32Exp (rne32 num den) ≠ 255 → ∀ y : Word, f32Exp y ≠ 255 →
      |f32Units (rne32 num den) * den - num * 2 ^ 149| ≤ |f32Units y * den - num * 2 ^ 149| ∧
      (|f32Units (rne32 num den) * den - num * 2 ^ 149| = |f32Units y * den - num * 2 ^ 149| →
        f32Units y ≠ f32Units (rne32 num den) → f32Frac (rne32 num den) % 2 = 0))

/-- 42_compensation.md R186 with 00_scope.md R13, for a finite temperature: a NaN offset gives a quiet NaN,
an infinite one that infinity. A finite offset gives no NaN, a finite result while the exact sum is below
2^127 in magnitude, the value nearest to the exact sum, and on a tie one with an even significand. An
offset of +0.0 leaves the temperature as it is (R200). Values are counted in units of 2^-149. -/
def Obligations.OffsetAddition : Prop :=
  ∀ (s : State) (t offset : Word), f32Exp t ≠ 255 →
    let r := (addOffset s t offset).1
    let sum := f32Units t + f32Units offset
    (f32IsNaN offset = true → f32IsNaN r = true ∧ r.getLsbD 22 = true) ∧
    (f32IsInf offset = true → addOffset s t offset = (offset, s)) ∧
    (f32Exp offset ≠ 255 → (addOffset s t offset).2 = s ∧ f32IsNaN r = false ∧
      (|sum| < 2 ^ 127 * 2 ^ 149 → f32Exp r ≠ 255) ∧
      (f32Exp r ≠ 255 → ∀ y : Word, f32Exp y ≠ 255 →
        |f32Units r - sum| ≤ |f32Units y - sum| ∧
        (|f32Units r - sum| = |f32Units y - sum| → f32Units y ≠ f32Units r →
          f32Frac r % 2 = 0))) ∧
    (t ≠ 0x80000000#32 → addOffset s t 0#32 = (t, s))

/-! ## Configuration Encoder and decoders -/

/-- 41_codec.md R141, R143, R144, R145 with the clamp of R140: the single-field encoders. -/
def Obligations.FieldEncoders : Prop :=
  ∀ (s : State) (v : Nat) (a b c : Word),
    decode ⟨0x40#8, a, b, c⟩ = .ok (.encOs a.toNat) ∧
    decode ⟨0x42#8, a, b, c⟩ = .ok (.encMode a.toNat) ∧
    decode ⟨0x43#8, a, b, c⟩ = .ok (.encFilter a.toNat) ∧
    decode ⟨0x44#8, a, b, c⟩ = .ok (.encStandby a.toNat) ∧
    exec (.encOs v) s = .next (observe s { code := BitVec.ofNat 8 (min v 5) } []) ∧
    exec (.encMode v) s =
      .next (observe s { code := if v = 0 then 0b00#8 else if v = 1 then 0b01#8 else 0b11#8 } []) ∧
    exec (.encFilter v) s = .next (observe s { code := BitVec.ofNat 8 (min v 4) } []) ∧
    exec (.encStandby v) s = .next (observe s { code := BitVec.ofNat 8 (min v 7) } [])

/-- 41_codec.md R142: ENC_OS_COUNT gives the index of the valid count nearest to n, the smaller count
on a tie, and so the table of the rule. -/
def Obligations.SampleCountEncoder : Prop :=
  (∀ a b c : Word, decode ⟨0x41#8, a, b, c⟩ = .ok (.encOsCount a.toNat)) ∧
  ∀ (s : State) (n : Nat), ∃ k : Nat, k < 6 ∧
    exec (.encOsCount n) s = .next (observe s { code := BitVec.ofNat 8 k } []) ∧
    (∀ j < 6, |(n : Int) - ([0, 1, 2, 4, 8, 16].getD k 0 : Int)| ≤
      |(n : Int) - ([0, 1, 2, 4, 8, 16].getD j 0 : Int)|) ∧
    (∀ j < 6, |(n : Int) - ([0, 1, 2, 4, 8, 16].getD k 0 : Int)| =
      |(n : Int) - ([0, 1, 2, 4, 8, 16].getD j 0 : Int)| → k ≤ j) ∧
    k = if n = 0 then 0 else if n = 1 then 1 else if n ≤ 3 then 2 else if n ≤ 6 then 3
      else if n ≤ 12 then 4 else 5

/-- 41_codec.md R146, R147, R148: the three register images as numbers, each operand clamped on its
own; bits 1:0 of a ctrl_meas image are never 0b10, those of a config image are 0. -/
def Obligations.ImageEncoders : Prop :=
  (∀ a b c : Word,
    decode ⟨0x45#8, a, b, c⟩ = .ok (.encCtrlMeas a.toNat b.toNat c.toNat) ∧
    decode ⟨0x46#8, a, b, c⟩ = .ok (.encConfig a.toNat b.toNat) ∧
    decode ⟨0x47#8, a, b, c⟩ = .ok (.encCtrlHum a.toNat)) ∧
  ∀ (s : State) (x y z : Nat),
    (∃ byte : Byte, exec (.encCtrlMeas x y z) s = .next (observe s { byte := byte } []) ∧
      byte.toNat = 32 * min x 5 + 4 * min y 5 + (if z = 0 then 0 else if z = 1 then 1 else 3) ∧
      byte.toNat % 4 ≠ 2 ∧ byte.toNat ≤ 0xB7) ∧
    (∃ byte : Byte, exec (.encConfig x y) s = .next (observe s { byte := byte } []) ∧
      byte.toNat = 32 * min x 7 + 4 * min y 4 ∧ byte.toNat % 4 = 0 ∧ byte.toNat ≤ 0xF0) ∧
    (∃ byte : Byte, exec (.encCtrlHum x) s = .next (observe s { byte := byte } []) ∧
      byte.toNat = min x 5)

/-- 41_codec.md R154: each field of a ctrl_meas and of a config image is the code it was built from. -/
def Obligations.ImageFieldsRecovered : Prop :=
  ∀ (s : State) (a b c d f : Nat), ∃ r q : Result,
    resultOf (.encCtrlMeas a b c) s = some r ∧ resultOf (.encConfig d f) s = some q ∧
    (r.byte >>> 5).toNat = osCode a ∧ ((r.byte >>> 2) &&& 7#8).toNat = osCode b ∧
    (r.byte &&& 3#8).toNat = modeCode c ∧
    (q.byte >>> 5).toNat = sbCode d ∧ ((q.byte >>> 2) &&& 7#8).toNat = fltCode f ∧
    osCode a < 8 ∧ osCode b < 8 ∧ modeCode c < 4 ∧ sbCode d < 8 ∧ fltCode f < 8

/-- 41_codec.md R152: decoding an encoded mode gives the mode back, from the mode code and from a whole
ctrl_meas image. -/
def Obligations.ModeRoundTrip : Prop :=
  ∀ (s t : State) (a b m : Nat), m ≤ 2 → ∃ r q u v : Result,
    resultOf (.encMode m) s = some r ∧ resultOf (.decMode r.code) t = some q ∧ q.mode.toNat = m ∧
    resultOf (.encCtrlMeas a b m) s = some u ∧ resultOf (.decMode u.byte) t = some v ∧
    v.mode.toNat = m

/-- 41_codec.md R149: DEC_MODE on the four mode fields, 0b10 under each `MODE10_DECODE`. Left open, the
mode is the next free draw, an ordinal from 0, 1, 2 (93_implementation_defined.md U5); that the draw is
made anew at each command, and counted by `fresh`, is the model's choice (log 14, log 6). -/
def Obligations.ModeDecoder : Prop :=
  (∀ a b c : Word, decode ⟨0x48#8, a, b, c⟩ = .ok (.decMode (BitVec.ofNat 8 a.toNat))) ∧
  (∀ (s : State) (image : Byte),
    (image.toNat % 4 = 0 → exec (.decMode image) s = .next (observe s { code := 0, mode := 0 } [])) ∧
    (image.toNat % 4 = 1 → exec (.decMode image) s = .next (observe s { code := 1, mode := 1 } [])) ∧
    (image.toNat % 4 = 3 → exec (.decMode image) s = .next (observe s { code := 3, mode := 2 } [])) ∧
    (image.toNat % 4 = 2 →
      (s.params.mode10Decode = .sleep →
        exec (.decMode image) s = .next (observe s { code := 2, mode := 0 } [])) ∧
      (s.params.mode10Decode = .forced →
        exec (.decMode image) s = .next (observe s { code := 2, mode := 1 } [])) ∧
      (s.params.mode10Decode = .normal →
        exec (.decMode image) s = .next (observe s { code := 2, mode := 2 } [])))) ∧
  ∀ (s : State) (image : Byte), s.params.mode10Decode = .leftOpen → image.toNat % 4 = 2 →
    exec (.decMode image) s = .next (observe { s with fresh := s.fresh + 1 }
      { code := 2, mode := codeByte (Config.freeMode s.fresh).val } []) ∧
    (codeByte (Config.freeMode s.fresh).val).toNat ≤ 2

/-- 41_codec.md R150: DEC_BUSY decodes bit 3 and no other. -/
def Obligations.BusyDecoder : Prop :=
  (∀ a b c : Word, decode ⟨0x49#8, a, b, c⟩ = .ok (.decBusy (BitVec.ofNat 8 a.toNat))) ∧
  ∀ (s : State) (image : Byte),
    exec (.decBusy image) s =
      .next (observe s { flag := if image.toNat / 8 % 2 = 1 then 1#1 else 0#1 } [])

/-- 41_codec.md R151: PARSE_BURST on the two operand words, from the command to the raw values. -/
def Obligations.BurstParser : Prop :=
  (∀ a b c : Word, decode ⟨0x4A#8, a, b, c⟩ = .ok (.parseBurst (burstOfWords a b))) ∧
  (∀ (s : State) (x : Burst),
    exec (.parseBurst x) s = .next (observe s
      { rawP := BitVec.ofNat 20 (x.b0.toNat * 2 ^ 12 + x.b1.toNat * 2 ^ 4 + x.b2.toNat / 2 ^ 4)
        rawT := BitVec.ofNat 20 (x.b3.toNat * 2 ^ 12 + x.b4.toNat * 2 ^ 4 + x.b5.toNat / 2 ^ 4)
        rawH := BitVec.ofNat 16 (x.b6.toNat * 2 ^ 8 + x.b7.toNat) } [])) ∧
  ∀ (s : State) (a b : Word), resultOf (.parseBurst (burstOfWords a b)) s = some
    { rawP := BitVec.ofNat 20 (a.toNat / 2 ^ 12)
      rawT := BitVec.ofNat 20 (a.toNat % 2 ^ 8 * 2 ^ 12 + b.toNat / 2 ^ 20)
      rawH := BitVec.ofNat 16 b.toNat }

/-- 41_codec.md R153: every codec command returns OK for every operand in every state, issues no
transaction, and neither reads nor writes the store or its flag. -/
def Obligations.CodecCommandsTotal : Prop :=
  ∀ (i : Instr) (s : State), isCodec i = true → ∃ (r : Result) (n : Nat), r.status = 0#8 ∧
    ∀ (c : Calib) (v : Bool),
      exec i { s with calib := c, calibValid := v } =
        .next (observe { s with calib := c, calibValid := v, fresh := n } r [])

/-! ## Compensation Engine -/

/-- 42_compensation.md R188: the temperature stage under both policies as one closed form, and the
range of its terms for every calibration and raw value, so that it always answers when unbounded. -/
def Obligations.TemperatureStage : Prop :=
  (∀ (c : Calib) (r : Int), temperature .fault c r =
    if allFit 32 (tempIntermediates c r) then .ok (tempValue c r) else .error .arithmeticOverflow) ∧
  (∀ (c : Calib) (r : Int), temperature .unbounded c r =
    if fitsS 32 (tempValue c r) then .ok (tempValue c r) else .error .arithmeticOverflow) ∧
  ∀ (c : Calib) (r : Int) (se : Bool), StoreInRange se c → 0 ≤ r → r < 2 ^ 20 →
    |((r / 8 - 2 * c.t1) * c.t2) / 2 ^ 11| ≤ 2097136 ∧
    |((r / 16 - c.t1) * (r / 16 - c.t1)) / 2 ^ 12 * c.t3 / 2 ^ 14| ≤ 2097088 ∧
    |tempValue c r| < 2 ^ 22 ∧ temperature .unbounded c r = .ok (tempValue c r)

/-- 42_compensation.md R189: the shift form differs from the source's formula in exact arithmetic only
by the floors; the bound 78 is computed from the coefficient ranges, not stated by the spec. -/
def Obligations.TemperatureNearSourceFormula : Prop :=
  ∀ (c : Calib) (r t : Int) (p : OverflowPolicy) (se : Bool),
    StoreInRange se c → 0 ≤ r → r < 2 ^ 20 → temperature p c r = .ok t →
    |((r : ℚ) / 16384 - c.t1 / 1024) * c.t2 +
      ((r : ℚ) / 131072 - c.t1 / 8192) ^ 2 * c.t3 - t| < 78

/-- 42_compensation.md R191, R192: the pressure stage under both policies as one closed form, overflows
before the zero test coming first, and when the divisor is 0. -/
def Obligations.PressureStage : Prop :=
  (∀ (c : Calib) (r t : Int), pressure .fault c r t =
    if allFit 64 (presBefore c t) = false then .error .arithmeticOverflow
    else if presDivisor c t = 0 then .error .invalidPressureReading
    else if allFit 64 (presAfter c r t) = false then .error .arithmeticOverflow
    else .ok (presValue c r t)) ∧
  (∀ (c : Calib) (r t : Int), pressure .unbounded c r t =
    if presDivisor c t = 0 then .error .invalidPressureReading
    else if fitsS 64 (presValue c r t) then .ok (presValue c r t)
    else .error .arithmeticOverflow) ∧
  ∀ (c : Calib) (t : Int), presDivisor c t = 0 ↔
    c.p1 = 0 ∨ (0 ≤ (2 ^ 47 + presSlope c t) * c.p1 ∧ (2 ^ 47 + presSlope c t) * c.p1 < 2 ^ 33)

/-- 42_compensation.md R194, R195: the humidity stage under both policies as one closed form. -/
def Obligations.HumidityStage : Prop :=
  (∀ (c : Calib) (r t : Int), humidity .fault c r t =
    if allFit 32 (humIntermediates c r t) then .ok (humValue c r t)
    else .error .arithmeticOverflow) ∧
  (∀ (c : Calib) (r t : Int), humidity .unbounded c r t = .ok (humValue c r t)) ∧
  ∀ (c : Calib) (r t : Int), 0 ≤ humValue c r t ∧ humValue c r t ≤ 102400

/-- Checking only removes results: whatever the `fault` policy delivers, `unbounded` delivers too
(00_scope.md R9, 42_compensation.md R182). -/
def Obligations.OverflowPolicyOnlyRemoves : Prop :=
  (∀ (c : Calib) (r v : Int), temperature .fault c r = .ok v → temperature .unbounded c r = .ok v) ∧
  (∀ (c : Calib) (r t v : Int), pressure .fault c r t = .ok v → pressure .unbounded c r t = .ok v) ∧
  (∀ (c : Calib) (r t : Int), pressure .fault c r t = .error .invalidPressureReading →
    pressure .unbounded c r t = .error .invalidPressureReading) ∧
  (∀ (c : Calib) (r t v : Int), humidity .fault c r t = .ok v → humidity .unbounded c r t = .ok v)

/-- 42_compensation.md R197: COMP_T. -/
def Obligations.CompTResult : Prop :=
  (∀ a b c : Word, decode ⟨0x20#8, a, b, c⟩ = .ok (.compT (a.toNat % 2 ^ 20))) ∧
  ∀ (s : State) (rawT : Nat),
    (s.calibValid = false → exec (.compT rawT) s = .next (observe s { status := 2#8 } [])) ∧
    (∀ t : Int, s.calibValid = true →
      temperature s.params.overflowPolicy s.calib rawT = .ok t →
      exec (.compT rawT) s =
        .next (observe s { tfine := BitVec.ofInt 32 t, tF32 := rne32 t 5120 } []) ∧
      (BitVec.ofInt 32 t).toInt = t) ∧
    (∀ e : StageError, s.calibValid = true →
      temperature s.params.overflowPolicy s.calib rawT = .error e →
      exec (.compT rawT) s = .next (observe s { status := 5#8 } []))

/-- 42_compensation.md R198 with R192 and R193: COMP_P. The rule's sentence that P1 = 0 always gives an
invalid reading holds unless an earlier step overflows, as R191 and R288 say (log 15). -/
def Obligations.CompPResult : Prop :=
  (∀ a b c : Word, decode ⟨0x21#8, a, b, c⟩ = .ok (.compP (a.toNat % 2 ^ 20) b.toInt)) ∧
  ∀ (s : State) (rawP : Nat) (tfine : Int),
    (s.calibValid = false → exec (.compP rawP tfine) s = .next (observe s { status := 2#8 } [])) ∧
    (∀ p : Int, s.calibValid = true →
      pressure s.params.overflowPolicy s.calib rawP tfine = .ok p →
      exec (.compP rawP tfine) s =
        .next (observe s { pQ8 := BitVec.ofInt 64 p, pF32 := rne32 p 256 } []) ∧
      (BitVec.ofInt 64 p).toInt = p) ∧
    (s.calibValid = true →
      pressure s.params.overflowPolicy s.calib rawP tfine = .error .invalidPressureReading →
      exec (.compP rawP tfine) s = .next (observe s { status := 3#8 } [])) ∧
    (s.calibValid = true →
      pressure s.params.overflowPolicy s.calib rawP tfine = .error .arithmeticOverflow →
      exec (.compP rawP tfine) s = .next (observe s { status := 5#8 } []))

/-- 42_compensation.md R199: COMP_H. -/
def Obligations.CompHResult : Prop :=
  (∀ a b c : Word, decode ⟨0x22#8, a, b, c⟩ = .ok (.compH (a.toNat % 2 ^ 16) b.toInt)) ∧
  ∀ (s : State) (rawH : Nat) (tfine : Int),
    (s.calibValid = false → exec (.compH rawH tfine) s = .next (observe s { status := 2#8 } [])) ∧
    (∀ h : Int, s.calibValid = true →
      humidity s.params.overflowPolicy s.calib rawH tfine = .ok h →
      exec (.compH rawH tfine) s =
        .next (observe s { hQ10 := BitVec.ofInt 32 h, hF32 := rne32 h 1024 } [])) ∧
    (∀ e : StageError, s.calibValid = true →
      humidity s.params.overflowPolicy s.calib rawH tfine = .error e →
      exec (.compH rawH tfine) s = .next (observe s { status := 5#8 } []))

/-- 42_compensation.md R200: COMP_ALL, field by field. `corr` is the temperature with the offset added,
and only the counter of free values may move with it. -/
def Obligations.CompAllResult : Prop :=
  (∀ a b c : Word, decode ⟨0x23#8, a, b, c⟩ = .ok (.compAll (burstOfWords a b) c)) ∧
  ∀ (s : State) (x : Burst) (offset : Word),
    (s.calibValid = false → exec (.compAll x offset) s = .next (observe s { status := 2#8 } [])) ∧
    (∀ e : StageError, s.calibValid = true →
      temperature s.params.overflowPolicy s.calib (burstRawT x).toNat = .error e →
      exec (.compAll x offset) s = .next (observe s { status := 5#8 } [])) ∧
    (∀ t : Int, s.calibValid = true →
      temperature s.params.overflowPolicy s.calib (burstRawT x).toNat = .ok t →
      ∃ r : Result,
        exec (.compAll x offset) s =
          .next (observe { s with fresh := (addOffset s (rne32 t 5120) offset).2.fresh } r []) ∧
        r.status = 0 ∧ r.rawP = burstRawP x ∧ r.rawT = burstRawT x ∧ r.rawH = burstRawH x ∧
        r.tfine.toInt = t ∧ r.tF32 = rne32 t 5120 ∧
        r.tCorrF32 = (addOffset s (rne32 t 5120) offset).1 ∧
        (offset = 0#32 → r.tCorrF32 = r.tF32) ∧
        r.byte = 0 ∧ r.code = 0 ∧ r.mode = 0 ∧ r.flag = 0 ∧
        (∀ p : Int, pressure s.params.overflowPolicy s.calib (burstRawP x).toNat t = .ok p →
          r.pStatus = 0 ∧ r.pQ8.toInt = p ∧ r.pF32 = rne32 p 256) ∧
        (pressure s.params.overflowPolicy s.calib (burstRawP x).toNat t =
            .error .invalidPressureReading → r.pStatus = 3 ∧ r.pQ8 = 0 ∧ r.pF32 = 0) ∧
        (pressure s.params.overflowPolicy s.calib (burstRawP x).toNat t =
            .error .arithmeticOverflow → r.pStatus = 5 ∧ r.pQ8 = 0 ∧ r.pF32 = 0) ∧
        (∀ h : Int, humidity s.params.overflowPolicy s.calib (burstRawH x).toNat t = .ok h →
          r.hStatus = 0 ∧ r.hQ10.toInt = h ∧ r.hF32 = rne32 h 1024) ∧
        (∀ e : StageError, humidity s.params.overflowPolicy s.calib (burstRawH x).toNat t =
            .error e → r.hStatus = 5 ∧ r.hQ10 = 0 ∧ r.hF32 = 0))

/-- COMP_ALL is COMP_T, then COMP_P and COMP_H on its `tfine`: the same fields, the same outcome codes
(42_compensation.md R200, R202). -/
def Obligations.CompAllMatchesSingleStages : Prop :=
  ∀ (s : State) (x : Burst) (offset : Word) (rt : Result),
    resultOf (.compT (burstRawT x).toNat) s = some rt → rt.status = 0 →
    ∃ ra rp rh : Result,
      resultOf (.compAll x offset) s = some ra ∧
      resultOf (.compP (burstRawP x).toNat rt.tfine.toInt) s = some rp ∧
      resultOf (.compH (burstRawH x).toNat rt.tfine.toInt) s = some rh ∧
      ra.status = 0 ∧ ra.tfine = rt.tfine ∧ ra.tF32 = rt.tF32 ∧
      ra.pStatus = rp.status ∧ ra.pQ8 = rp.pQ8 ∧ ra.pF32 = rp.pF32 ∧
      ra.hStatus = rh.status ∧ ra.hQ10 = rh.hQ10 ∧ ra.hF32 = rh.hF32

/-- 42_compensation.md R201: two offsets give records that differ in `t_corr_f32` only, for COMP_ALL and
for READ_ALL. -/
def Obligations.OffsetOnlyInCorrectedField : Prop :=
  ∀ (s : State) (x : Burst) (offset offset' : Word) (r r' : Result),
    (resultOf (.compAll x offset) s = some r → resultOf (.compAll x offset') s = some r' →
      { r with tCorrF32 := 0 } = { r' with tCorrF32 := 0 }) ∧
    (resultOf (.readAll offset) s = some r → resultOf (.readAll offset') s = some r' →
      { r with tCorrF32 := 0 } = { r' with tCorrF32 := 0 })

/-- 42_compensation.md R204: COMP_H and COMP_ALL report an overflow of the humidity stage or give a
humidity in [0, 100]. The third alternative of each is the command turned away before that stage. -/
def Obligations.HumidityRangeLaw : Prop :=
  (∀ (s : State) (rawH : Nat) (tfine : Int), s.calibValid = true →
    ∃ r, resultOf (.compH rawH tfine) s = some r ∧
      (r.status = 5#8 ∨ (r.status = 0#8 ∧ r.hQ10.toNat ≤ 102400 ∧
        0 ≤ f32Units r.hF32 ∧ f32Units r.hF32 ≤ 100 * 2 ^ 149))) ∧
  (∀ (s : State) (x : Burst) (offset : Word), s.calibValid = true →
    ∃ r, resultOf (.compAll x offset) s = some r ∧
      (r.status = 5#8 ∨ (r.status = 0#8 ∧ (r.hStatus = 5#8 ∨
        (r.hStatus = 0#8 ∧ r.hQ10.toNat ≤ 102400 ∧
          0 ≤ f32Units r.hF32 ∧ f32Units r.hF32 ≤ 100 * 2 ^ 149)))))

/-- 42_compensation.md R196: the binary32 humidity is exact. -/
def Obligations.HumidityFloatExact : Prop :=
  ∀ h : Int, 0 ≤ h → h ≤ 102400 →
    f32Exp (rne32 h 1024) ≠ 255 ∧ f32Units (rne32 h 1024) * 1024 = h * 2 ^ 149

/-- 42_compensation.md R187 and 60_exceptions.md R283: without a valid calibration every command that
reads the store answers UNCALIBRATED_ACCESS, before any transaction, whatever the transport does. -/
def Obligations.UncalibratedTestedFirst : Prop :=
  ∀ (i : Instr) (s : State), needsCalib i = true → s.calibValid = false →
    exec i s = .next (observe s { status := 2#8 } [])

/-! ## The bus -/

/-- 20_memory.md R56, R57: what answers a read and a write. The image answers with the contents of the
registers; otherwise the listed draws answer in order, and past the end of a list the answer is the next
free value. Nothing else moves than the oracle, and the counter by one where a free value is taken. The
lists and the counter are the model's choice (log 4, log 6). -/
def Obligations.OracleAnswers : Prop :=
  (∀ (s : State) (addr : RegAddr) (n : Nat), s.oracle = .image →
    ∃ bs, drawRead s addr n = (.ok bs, s) ∧ bs.length = n ∧
      ∀ i < n, bs[i]? = some (memRead s.regs (addr.toNat + i))) ∧
  (∀ (s : State) (addr : RegAddr) (v : Byte), s.oracle = .image →
    drawWrite s addr v = (.ok, { s with regs := imageWrite s.regs addr v })) ∧
  (∀ (s : State) (addr : RegAddr) (n : Nat) (a : ReadAnswer) (rs : List ReadAnswer)
    (ws : List WriteAnswer), s.oracle = .draws (a :: rs) ws →
    drawRead s addr n = (a, { s with oracle := .draws rs ws })) ∧
  (∀ (s : State) (addr : RegAddr) (v : Byte) (a : WriteAnswer) (rs : List ReadAnswer)
    (ws : List WriteAnswer), s.oracle = .draws rs (a :: ws) →
    drawWrite s addr v = (a, { s with oracle := .draws rs ws })) ∧
  (∀ (s : State) (addr : RegAddr) (n : Nat) (ws : List WriteAnswer), s.oracle = .draws [] ws →
    drawRead s addr n = (freeReadAnswer s.fresh, { s with fresh := s.fresh + 1 })) ∧
  (∀ (s : State) (addr : RegAddr) (v : Byte) (rs : List ReadAnswer), s.oracle = .draws rs [] →
    drawWrite s addr v = (freeWriteAnswer s.fresh, { s with fresh := s.fresh + 1 }))

/-- 30_encoding.md R96 with the placement of R95: every coefficient as a number from its bytes. -/
def Obligations.CoefficientAssembly : Prop :=
  ∀ (se : Bool) (a h e : List Byte),
    let sext (n : Nat) (v : Int) : Int := if v < 2 ^ (n - 1) then v else v - 2 ^ n
    let le (l : List Byte) (i : Nat) : Int := (l.getD i 0).toNat + 256 * (l.getD (i + 1) 0).toNat
    let h4 : Int := 16 * (e.getD 3 0).toNat + (e.getD 4 0).toNat % 16
    let h5 : Int := 16 * (e.getD 5 0).toNat + (e.getD 4 0).toNat / 16
    coefList (assemble se a h e) =
      [le a 0, sext 16 (le a 2), sext 16 (le a 4), le a 6, sext 16 (le a 8), sext 16 (le a 10),
       sext 16 (le a 12), sext 16 (le a 14), sext 16 (le a 16), sext 16 (le a 18),
       sext 16 (le a 20), sext 16 (le a 22), (h.getD 0 0).toNat, sext 16 (le e 0),
       (e.getD 2 0).toNat, if se then sext 12 h4 else h4, if se then sext 12 h5 else h5,
       sext 8 (e.getD 6 0).toNat]

/-- 40_calibration.md R120, R121, R125: LOAD_CALIB locked, failing at each of its three reads, and
loading. -/
def Obligations.LoadCalibRule : Prop :=
  (∀ a b c : Word, decode ⟨0x10#8, a, b, c⟩ = .ok .loadCalib) ∧
  (∀ s : State, s.calibValid = true → exec .loadCalib s = .next (observe s { status := 6#8 } [])) ∧
  ∀ (s s1 s2 s3 : State) (ra rh re : ReadAnswer), s.calibValid = false → s.hung = false →
    drawRead s 0x88#8 24 = (ra, s1) → drawRead s1 0xA1#8 1 = (rh, s2) →
    drawRead s2 0xE1#8 7 = (re, s3) →
    let dev := s.params.devAddr
    (acceptBytes 24 ra = none → exec .loadCalib s =
      .next (observe s1 { status := 1#8 } [.read dev 0x88#8 24 ra])) ∧
    (∀ a, acceptBytes 24 ra = some a → acceptBytes 1 rh = none → exec .loadCalib s =
      .next (observe s2 { status := 1#8 } [.read dev 0x88#8 24 ra, .read dev 0xA1#8 1 rh])) ∧
    (∀ a h, acceptBytes 24 ra = some a → acceptBytes 1 rh = some h → acceptBytes 7 re = none →
      exec .loadCalib s = .next (observe s3 { status := 1#8 }
        [.read dev 0x88#8 24 ra, .read dev 0xA1#8 1 rh, .read dev 0xE1#8 7 re])) ∧
    (∀ a h e, acceptBytes 24 ra = some a → acceptBytes 1 rh = some h → acceptBytes 7 re = some e →
      exec .loadCalib s = .next (observe
        { s3 with calib := assemble s.params.h45SignExtend a h e, calibValid := true } {}
        [.read dev 0x88#8 24 ra, .read dev 0xA1#8 1 rh, .read dev 0xE1#8 7 re]))

/-- 40_calibration.md R122: a reply is taken only if it is `Ok` with exactly the requested number of
bytes. -/
def Obligations.ReplyLengthChecked : Prop :=
  ∀ (n : Nat) (answer : ReadAnswer) (bs : List Byte),
    acceptBytes n answer = some bs ↔ answer = .ok bs ∧ bs.length = n

/-- 40_calibration.md R123: every coefficient LOAD_CALIB writes lies in its register's range. -/
def Obligations.AssembledStoreInRange : Prop :=
  ∀ (se : Bool) (a h e : List Byte), StoreInRange se (assemble se a h e)

/-- 43_bus_commands.md R241, R242, R243: the three one-byte reads, answered and failing. READ_MODE
decodes as DEC_MODE does. None writes block state. -/
def Obligations.RegisterReads : Prop :=
  (∀ (s : State) (addr : RegAddr) (n : Nat), (drawRead s addr n).2.calib = s.calib ∧
    (drawRead s addr n).2.calibValid = s.calibValid) ∧
  ∀ (s s' : State) (answer : ReadAnswer), s.hung = false →
    (drawRead s 0xF3#8 1 = (answer, s') →
      (∀ b, answer = .ok [b] → exec .readBusy s = .next (observe s'
        { byte := b, flag := if b.toNat / 8 % 2 = 1 then 1#1 else 0#1 }
        [.read s.params.devAddr 0xF3#8 1 answer])) ∧
      (acceptBytes 1 answer = none → exec .readBusy s = .next (observe s' { status := 1#8 }
        [.read s.params.devAddr 0xF3#8 1 answer]))) ∧
    (drawRead s 0xF4#8 1 = (answer, s') →
      (∀ b, answer = .ok [b] → ∃ (q : Result) (t : State),
        exec (.decMode b) s' = .next (observe t q []) ∧
        exec .readMode s = .next (observe t { q with byte := b }
          [.read s.params.devAddr 0xF4#8 1 answer])) ∧
      (acceptBytes 1 answer = none → exec .readMode s = .next (observe s' { status := 1#8 }
        [.read s.params.devAddr 0xF4#8 1 answer]))) ∧
    (drawRead s 0xD0#8 1 = (answer, s') →
      (∀ b, answer = .ok [b] → exec .readChipId s = .next (observe s' { byte := b }
        [.read s.params.devAddr 0xD0#8 1 answer])) ∧
      (acceptBytes 1 answer = none → exec .readChipId s = .next (observe s' { status := 1#8 }
        [.read s.params.devAddr 0xD0#8 1 answer])))

/-- 43_bus_commands.md R244 to R247: each write command issues its one write of the image the encoders
build, reports it or the failure, and leaves the store and its flag as they were. -/
def Obligations.RegisterWrites : Prop :=
  ∀ (i : Instr) (addr : RegAddr) (v : Byte) (s s' : State) (answer : WriteAnswer),
    registerWritten i = some (addr, v) → s.hung = false → drawWrite s addr v = (answer, s') →
    s'.calib = s.calib ∧ s'.calibValid = s.calibValid ∧
    (answer = .ok → exec i s =
      .next (observe s' { byte := v } [.write s.params.devAddr addr v .ok])) ∧
    (answer = .fail → exec i s =
      .next (observe s' { status := 1#8 } [.write s.params.devAddr addr v .fail]))

/-- 43_bus_commands.md R240: READ_ALL tests the calibration before any transaction, issues one burst
read, and answers what COMP_ALL answers for the bytes read. -/
def Obligations.ReadAllMatchesCompAll : Prop :=
  (∀ a b c : Word, decode ⟨0x30#8, a, b, c⟩ = .ok (.readAll c)) ∧
  (∀ (s : State) (offset : Word), s.calibValid = false →
    exec (.readAll offset) s = .next (observe s { status := 2#8 } [])) ∧
  ∀ (s s' : State) (offset : Word) (answer : ReadAnswer), s.calibValid = true → s.hung = false →
    drawRead s 0xF7#8 8 = (answer, s') →
    (acceptBytes 8 answer = none → exec (.readAll offset) s =
      .next (observe s' { status := 1#8 } [.read s.params.devAddr 0xF7#8 8 answer])) ∧
    (∀ bs, answer = .ok bs → bs.length = 8 → ∃ (t : State) (r : Result),
      exec (.compAll (burstOfBytes bs) offset) s' = .next (observe t r []) ∧
      exec (.readAll offset) s =
        .next (observe t r [.read s.params.devAddr 0xF7#8 8 answer]))

/-- What a command does to the register image, register by register: a write command stores its image at
its own address and nowhere else (0xE0 reads 0x00 afterwards as before), every other command stores
nothing (20_memory.md R51, 95_test_vectors.md section 3). -/
def Obligations.RegisterImageFrame : Prop :=
  ∀ (i : Instr) (s t : State), Memory.wf s.regs = true → s.oracle = .image → exec i s = .next t →
    t.oracle = .image ∧
    (∀ addr v, registerWritten i = some (addr, v) → addr ≠ 0xE0#8 →
      memRead t.regs addr.toNat = v ∧ ∀ k, k ≠ addr.toNat → memRead t.regs k = memRead s.regs k) ∧
    ((registerWritten i = none ∨ i = .softReset) → ∀ k, memRead t.regs k = memRead s.regs k)

/-- On the register image, what WRITE_CTRL_MEAS writes READ_MODE reads back, the mode clamped
(43_bus_commands.md R242, R245). -/
def Obligations.WrittenModeReadsBack : Prop :=
  ∀ (s t : State) (a b m : Nat), Memory.wf s.regs = true → s.oracle = .image → s.hung = false →
    exec (.writeCtrlMeas a b m) s = .next t →
    ∃ r, resultOf .readMode t = some r ∧ r.status = 0 ∧ r.mode.toNat = min m 2

/-- 60_exceptions.md R282 and 70_reset_and_hazards.md R335: the only stop of an instruction is the
transport that never answers, and exactly the commands that reach a transaction meet it; every other
command completes. -/
def Obligations.OnlyTheTransportStops : Prop :=
  ∀ (i : Instr) (s : State),
    (exec i s = .fault .transportHung ↔
      s.hung = true ∧ isBus i = true ∧ (i = .loadCalib → s.calibValid = false) ∧
      (needsCalib i = true → s.calibValid = true)) ∧
    (exec i s ≠ .fault .transportHung → ∃ t, exec i s = .next t)

/-! ## Rules about every command -/

/-- Every command returns exactly one (result, trace) pair, appended to those before it, and leaves the
parameters and the port alone (30_encoding.md R84, 20_memory.md R58). -/
def Obligations.OneObservationPerCommand : Prop :=
  ∀ (i : Instr) (s t : State), exec i s = .next t →
    (∃ o, t.observed = s.observed ++ [o]) ∧ t.params = s.params ∧ t.inputs = s.inputs ∧
    t.hung = s.hung ∧ s.fresh ≤ t.fresh ∧
    (isBus i = false → t.oracle = s.oracle ∧ t.regs = s.regs)

/-- 10_state.md R25: the store and its flag change only by a LOAD_CALIB issued while `CALIB_VALID` is 0;
one issued while it is 1 writes nothing and returns CALIBRATION_LOCKED. -/
def Obligations.StoreWrittenOnlyByLoad : Prop :=
  (∀ (i : Instr) (s t : State), exec i s = .next t →
    (t.calib ≠ s.calib ∨ t.calibValid ≠ s.calibValid) → i = .loadCalib ∧ s.calibValid = false) ∧
  (∀ s : State, s.calibValid = true → ∃ t, exec .loadCalib s = .next t ∧ t.calib = s.calib ∧
    t.calibValid = s.calibValid ∧ resultOf .loadCalib s = some { status := 6#8 })

/-- 40_calibration.md R124: LOAD_CALIB commits all 18 registers and the flag after three successful
reads, or writes nothing. -/
def Obligations.LoadIsAtomic : Prop :=
  ∀ s t : State, exec .loadCalib s = .next t →
    (t.calib = s.calib ∧ t.calibValid = s.calibValid ∧
      ∃ o, t.observed = s.observed ++ [o] ∧ o.result.status ≠ 0) ∨
    (s.calibValid = false ∧ t.calibValid = true ∧
      ∃ o, t.observed = s.observed ++ [o] ∧ LoadedBy t o)

/-- 00_scope.md R12, 60_exceptions.md R280 and R286: a command that reports an error delivers its code
and nothing else, and leaves block state as it was. -/
def Obligations.ErrorsArePrecise : Prop :=
  ∀ (i : Instr) (s t : State) (o : Observation), exec i s = .next t →
    t.observed = s.observed ++ [o] → o.result.status ≠ 0 →
    o.result = { status := o.result.status } ∧ t.calib = s.calib ∧ t.calibValid = s.calibValid

/-- 43_bus_commands.md R248: BUS_ERROR is reported exactly when a transaction failed, nothing is issued
after a failed one, and block state stays as it was. -/
def Obligations.BusFailureEndsCommand : Prop :=
  ∀ (i : Instr) (s t : State) (o : Observation), exec i s = .next t →
    t.observed = s.observed ++ [o] →
    LegalTrace o ∧
    ((∃ e ∈ o.trace, eventFailed e = true) → t.calib = s.calib ∧ t.calibValid = s.calibValid)

/-- No command reads what earlier commands answered (10_state.md R39, 60_exceptions.md R297): with
another history the command does the same and answers the same. -/
def Obligations.HistoryNeverRead : Prop :=
  ∀ (i : Instr) (s t : State) (past : List Observation), exec i s = .next t →
    ∃ o, t.observed = s.observed ++ [o] ∧
      exec i { s with observed := past } = .next { t with observed := past ++ [o] }

/-! ## Invariants and runs -/

/-- Every step keeps each coefficient register in the range of its type (10_state.md R22, R23). -/
def Obligations.StoreInRangeInvariant : Prop :=
  ∀ s t : State, StoreInRange s.params.h45SignExtend s.calib → step s = .next t →
    StoreInRange t.params.h45SignExtend t.calib

/-- Every step keeps this: while `CALIB_VALID` is 1 the store holds what the one committed LOAD_CALIB of
this session read, and while it is 0 the store is as reset left it (10_state.md R24). -/
def Obligations.StoreProvenanceInvariant : Prop :=
  ∀ s t : State, StoreProvenance s → step s = .next t → StoreProvenance t

/-- Every step keeps this: all results, traces and events shown are legal: status codes 0 to 6, erroring
fields 0, only the addresses, counts and images of the register map, BUS_ERROR exactly on a failed
transaction, the device address passed unchanged (30_encoding.md R84, R85, 20_memory.md R51, R55, R60,
R70). -/
def Obligations.ObservationsLegalInvariant : Prop :=
  ∀ s t : State, ObservationsLegal s → step s = .next t → ObservationsLegal t

/-- Every step keeps the register image in canonical form. -/
def Obligations.RegisterImageInvariant : Prop :=
  ∀ s t : State, Memory.wf s.regs = true → step s = .next t → Memory.wf t.regs = true

/-- The reset state meets the four invariants. -/
def Obligations.ResetMeetsInvariants : Prop :=
  StoreInRange State.reset.params.h45SignExtend State.reset.calib ∧ StoreProvenance State.reset ∧
  ObservationsLegal State.reset ∧ Memory.wf State.reset.regs = true

/-- Every command presented is performed, in order, one result each, whatever the transport answers, as
long as it answers (10_state.md R21, 60_exceptions.md R287, 70_reset_and_hazards.md R334, R335): the k-th
new pair is the one that performing the k-th command adds in the state that k steps reach. -/
def Obligations.EveryCommandAnswered : Prop :=
  ∀ s : State, s.hung = false → (∀ x ∈ s.inputs, x ≠ .blockReset) →
    ∃ t, Host.Core.run core s.inputs.length s = .next t ∧ t.inputs = [] ∧
      ∃ os : List Observation, t.observed = s.observed ++ os ∧ os.length = s.inputs.length ∧
        ∀ (k : Nat) (cmd : Command), s.inputs[k]? = some (.command cmd) →
          ∃ (u v : State) (o : Observation), Host.Core.run core k s = .next u ∧
            u.inputs = .command cmd :: s.inputs.drop (k + 1) ∧
            u.observed = s.observed ++ os.take k ∧
            perform cmd { u with inputs := s.inputs.drop (k + 1) } = .next v ∧
            v.observed = u.observed ++ [o] ∧ os[k]? = some o

/-- 30_encoding.md R88: CONFIGURE expands to four commands that issue the sleep, config, ctrl_hum and
ctrl_meas writes in this order. -/
def Obligations.ConfigureSequence : Prop :=
  ∀ (s : State) (tos pos hos mode sb flt : Nat) (reads : List ReadAnswer)
    (writes : List WriteAnswer),
    (∀ v ∈ [tos, pos, hos, mode, sb, flt], v < 2 ^ 32) → s.hung = false →
    s.oracle = .draws reads (.ok :: .ok :: .ok :: .ok :: writes) →
    let w (addr : RegAddr) (v : Byte) : Observation :=
      ⟨{ byte := v }, [.write s.params.devAddr addr v .ok]⟩
    Host.Core.run core 4 (withProgram s (configure tos pos hos mode sb flt)) =
      .next { s with
        oracle := .draws reads writes
        observed := s.observed ++
          [w 0xF4#8 0x00#8, w 0xF5#8 (configImage sb flt), w 0xF2#8 (ctrlHumImage hos),
           w 0xF4#8 (ctrlMeasImage tos pos mode)] }
end

