-- ==== Sys2Proof/Laws/Memory.lean ====
section
/-! SUPPORT. The register image: a read after a write, and that every operation keeps the canonical
form. -/

namespace Sys2Proof.Machine

theorem memAbove_mono {j k : Nat} (hjk : j ≤ k) : ∀ {m : Memory}, memAbove k m = true → memAbove j m = true
  | [], _ => rfl
  | (a, v) :: m, h => by
    simp only [memAbove, List.all_cons, Bool.and_eq_true, decide_eq_true_eq] at h ⊢
    exact ⟨by omega, memAbove_mono hjk h.2⟩

/-- An address at or below the bound of all listed addresses is not listed. -/
theorem memRead_of_memAbove {k : Nat} : ∀ {m : Memory}, memAbove k m = true → ∀ {j}, j ≤ k → memRead m j = 0
  | [], _, _, _ => rfl
  | (a, v) :: m, h, j, hj => by
    simp only [memAbove, List.all_cons, Bool.and_eq_true, decide_eq_true_eq] at h
    rw [memRead, if_neg (by omega)]
    exact memRead_of_memAbove h.2 hj

theorem memoryWf_cons {a : Nat} {v : Byte} {m : Memory} :
    Memory.wf ((a, v) :: m) = true ↔ a < 256 ∧ v ≠ 0 ∧ memAbove a m = true ∧ Memory.wf m = true := by
  simp [Memory.wf, and_assoc]

theorem memAbove_memWrite {b k : Nat} {v : Byte} (hbk : b < k) :
    ∀ {m : Memory}, memAbove b m = true → memAbove b (memWrite m k v) = true
  | [], _ => by unfold memWrite; split <;> simp [memAbove, hbk]
  | (a, w) :: m, h => by
    have h' := h
    simp only [memAbove, List.all_cons, Bool.and_eq_true, decide_eq_true_eq] at h
    unfold memWrite
    split
    · split
      · exact h'
      · simp only [memAbove, List.all_cons, Bool.and_eq_true, decide_eq_true_eq]
        exact ⟨hbk, h.1, h.2⟩
    · split
      · split
        · exact h.2
        · simp only [memAbove, List.all_cons, Bool.and_eq_true, decide_eq_true_eq]
          exact ⟨hbk, h.2⟩
      · simp only [memAbove, List.all_cons, Bool.and_eq_true, decide_eq_true_eq]
        exact ⟨h.1, memAbove_memWrite hbk h.2⟩

/-- A write keeps the canonical form. -/
theorem memWrite_wf {k : Nat} {v : Byte} (hk : k < 256) :
    ∀ {m : Memory}, Memory.wf m = true → Memory.wf (memWrite m k v) = true
  | [], _ => by unfold memWrite; split <;> simp_all [Memory.wf, memAbove]
  | (a, w) :: m, h => by
    have hcons := memoryWf_cons.mp h
    unfold memWrite
    split
    · split
      · exact h
      · rename_i hka hv
        refine memoryWf_cons.mpr ⟨hk, hv, ?_, h⟩
        simp only [memAbove, List.all_cons, Bool.and_eq_true, decide_eq_true_eq]
        exact ⟨hka, memAbove_mono (by omega) hcons.2.2.1⟩
    · split
      · split
        · exact hcons.2.2.2
        · rename_i _ hka hv
          subst hka
          exact memoryWf_cons.mpr ⟨hk, hv, hcons.2.2.1, hcons.2.2.2⟩
      · exact memoryWf_cons.mpr ⟨hcons.1, hcons.2.1, memAbove_memWrite (by omega) hcons.2.2.1,
          memWrite_wf hk hcons.2.2.2⟩

/-- A read after a write: the written byte at its address, every other address as before. -/
theorem memRead_memWrite {k : Nat} {v : Byte} :
    ∀ {m : Memory}, Memory.wf m = true → ∀ j, memRead (memWrite m k v) j = if j = k then v else memRead m j
  | [], _, j => by
    unfold memWrite
    split
    · simp_all [memRead]
    · simp only [memRead]; split <;> split <;> simp_all
  | (a, w) :: m, h, j => by
    have hcons := memoryWf_cons.mp h
    unfold memWrite
    split
    · rename_i hka
      split
      · rename_i hv
        split
        · rename_i hj
          subst hj hv
          rw [memRead, if_neg (by omega)]
          exact memRead_of_memAbove hcons.2.2.1 (by omega)
        · rfl
      · rw [memRead]
        simp only [eq_comm (a := k) (b := j)]
    · split
      · rename_i _ hka
        subst hka
        split
        · rename_i hv
          subst hv
          by_cases hj : j = k
          · subst hj
            rw [if_pos rfl]
            exact memRead_of_memAbove hcons.2.2.1 (Nat.le_refl _)
          · rw [if_neg hj, memRead, if_neg (Ne.symm hj)]
        · by_cases hj : j = k
          · subst hj; simp [memRead]
          · rw [memRead, if_neg (Ne.symm hj), if_neg hj, memRead, if_neg (Ne.symm hj)]
      · rename_i hlt hne
        rw [memRead]
        split
        · rename_i haj
          subst haj
          rw [if_neg (by omega), memRead, if_pos rfl]
        · rename_i haj
          rw [memRead_memWrite hcons.2.2.2 j, memRead, if_neg haj]

/-- What a register write does to the image keeps the canonical form. -/
theorem imageWrite_wf {m : Memory} {addr : RegAddr} {v : Byte} (h : Memory.wf m = true) :
    Memory.wf (imageWrite m addr v) = true := by
  unfold imageWrite
  split
  · exact h
  · exact memWrite_wf addr.isLt h

/-- What a register write does to the image, address by address. -/
theorem memRead_imageWrite {m : Memory} {addr : RegAddr} {v : Byte} (h : Memory.wf m = true) (j : Nat) :
    memRead (imageWrite m addr v) j =
      if addr ≠ softResetAddr ∧ j = addr.toNat then v else memRead m j := by
  unfold imageWrite
  by_cases ha : addr = softResetAddr
  · simp [ha]
  · rw [if_neg ha, memRead_memWrite h]
    simp [ha]

theorem memReadSpan_length (m : Memory) (addr n : Nat) : (memReadSpan m addr n).length = n := by
  simp [memReadSpan]

theorem memReadSpan_getElem? (m : Memory) (addr n i : Nat) (h : i < n) :
    (memReadSpan m addr n)[i]? = some (memRead m (addr + i)) := by
  simp [memReadSpan, h]

end Sys2Proof.Machine
end

