-- ==== Sys2Proof/Laws/State.lean ====
section
/-! SUPPORT. One lemma per field per update of the state, so that no later proof unfolds a record
update. -/

namespace Sys2Proof.Machine

variable (s : State)

/-! ### A delivered result -/

@[simp] theorem observe_calib (r : Result) (tr : List BusEvent) : (observe s r tr).calib = s.calib := rfl
@[simp] theorem observe_calibValid (r : Result) (tr : List BusEvent) :
    (observe s r tr).calibValid = s.calibValid := rfl
@[simp] theorem observe_params (r : Result) (tr : List BusEvent) : (observe s r tr).params = s.params := rfl
@[simp] theorem observe_inputs (r : Result) (tr : List BusEvent) : (observe s r tr).inputs = s.inputs := rfl
@[simp] theorem observe_observed (r : Result) (tr : List BusEvent) :
    (observe s r tr).observed = s.observed ++ [⟨r, tr⟩] := rfl
@[simp] theorem observe_oracle (r : Result) (tr : List BusEvent) : (observe s r tr).oracle = s.oracle := rfl
@[simp] theorem observe_regs (r : Result) (tr : List BusEvent) : (observe s r tr).regs = s.regs := rfl
@[simp] theorem observe_hung (r : Result) (tr : List BusEvent) : (observe s r tr).hung = s.hung := rfl
@[simp] theorem observe_fresh (r : Result) (tr : List BusEvent) : (observe s r tr).fresh = s.fresh := rfl

/-! ### A block reset -/

@[simp] theorem blockReset_calib : (blockReset s).calib = Calib.zero := rfl
@[simp] theorem blockReset_calibValid : (blockReset s).calibValid = false := rfl
@[simp] theorem blockReset_params : (blockReset s).params = s.params := rfl
@[simp] theorem blockReset_inputs : (blockReset s).inputs = s.inputs := rfl
@[simp] theorem blockReset_observed : (blockReset s).observed = [] := rfl
@[simp] theorem blockReset_oracle : (blockReset s).oracle = s.oracle := rfl
@[simp] theorem blockReset_regs : (blockReset s).regs = s.regs := rfl
@[simp] theorem blockReset_hung : (blockReset s).hung = s.hung := rfl
@[simp] theorem blockReset_fresh : (blockReset s).fresh = s.fresh := rfl

/-! ### A committed calibration -/

variable (a h e : List Byte)

@[simp] theorem commitCalib_calib :
    (commitCalib s a h e).calib = assemble s.params.h45SignExtend a h e := rfl
@[simp] theorem commitCalib_calibValid : (commitCalib s a h e).calibValid = true := rfl
@[simp] theorem commitCalib_params : (commitCalib s a h e).params = s.params := rfl
@[simp] theorem commitCalib_inputs : (commitCalib s a h e).inputs = s.inputs := rfl
@[simp] theorem commitCalib_observed : (commitCalib s a h e).observed = s.observed := rfl
@[simp] theorem commitCalib_oracle : (commitCalib s a h e).oracle = s.oracle := rfl
@[simp] theorem commitCalib_regs : (commitCalib s a h e).regs = s.regs := rfl
@[simp] theorem commitCalib_hung : (commitCalib s a h e).hung = s.hung := rfl
@[simp] theorem commitCalib_fresh : (commitCalib s a h e).fresh = s.fresh := rfl

/-! ### A command presented -/

variable (cmd : Command)

@[simp] theorem present_calib : (present s cmd).calib = s.calib := rfl
@[simp] theorem present_calibValid : (present s cmd).calibValid = s.calibValid := rfl
@[simp] theorem present_params : (present s cmd).params = s.params := rfl
@[simp] theorem present_inputs : (present s cmd).inputs = .command cmd :: s.inputs := rfl
@[simp] theorem present_observed : (present s cmd).observed = s.observed := rfl
@[simp] theorem present_oracle : (present s cmd).oracle = s.oracle := rfl
@[simp] theorem present_regs : (present s cmd).regs = s.regs := rfl
@[simp] theorem present_hung : (present s cmd).hung = s.hung := rfl
@[simp] theorem present_fresh : (present s cmd).fresh = s.fresh := rfl

/-! ### A read drawn: only the oracle's list and the counter can change -/

variable (addr : RegAddr) (n : Nat) (v : Byte)

@[simp] theorem drawRead_calib : (drawRead s addr n).2.calib = s.calib := by
  unfold drawRead; split <;> rfl
@[simp] theorem drawRead_calibValid : (drawRead s addr n).2.calibValid = s.calibValid := by
  unfold drawRead; split <;> rfl
@[simp] theorem drawRead_params : (drawRead s addr n).2.params = s.params := by
  unfold drawRead; split <;> rfl
@[simp] theorem drawRead_inputs : (drawRead s addr n).2.inputs = s.inputs := by
  unfold drawRead; split <;> rfl
@[simp] theorem drawRead_observed : (drawRead s addr n).2.observed = s.observed := by
  unfold drawRead; split <;> rfl
@[simp] theorem drawRead_regs : (drawRead s addr n).2.regs = s.regs := by
  unfold drawRead; split <;> rfl
@[simp] theorem drawRead_hung : (drawRead s addr n).2.hung = s.hung := by
  unfold drawRead; split <;> rfl

/-! ### A write drawn: the image can change too -/

@[simp] theorem drawWrite_calib : (drawWrite s addr v).2.calib = s.calib := by
  unfold drawWrite; split <;> rfl
@[simp] theorem drawWrite_calibValid : (drawWrite s addr v).2.calibValid = s.calibValid := by
  unfold drawWrite; split <;> rfl
@[simp] theorem drawWrite_params : (drawWrite s addr v).2.params = s.params := by
  unfold drawWrite; split <;> rfl
@[simp] theorem drawWrite_inputs : (drawWrite s addr v).2.inputs = s.inputs := by
  unfold drawWrite; split <;> rfl
@[simp] theorem drawWrite_observed : (drawWrite s addr v).2.observed = s.observed := by
  unfold drawWrite; split <;> rfl
@[simp] theorem drawWrite_hung : (drawWrite s addr v).2.hung = s.hung := by
  unfold drawWrite; split <;> rfl

/-! ### The offset added: only the counter can change -/

variable (t offset : Word)

@[simp] theorem addOffset_calib : (addOffset s t offset).2.calib = s.calib := rfl
@[simp] theorem addOffset_calibValid : (addOffset s t offset).2.calibValid = s.calibValid := rfl
@[simp] theorem addOffset_params : (addOffset s t offset).2.params = s.params := rfl
@[simp] theorem addOffset_inputs : (addOffset s t offset).2.inputs = s.inputs := rfl
@[simp] theorem addOffset_observed : (addOffset s t offset).2.observed = s.observed := rfl
@[simp] theorem addOffset_oracle : (addOffset s t offset).2.oracle = s.oracle := rfl
@[simp] theorem addOffset_regs : (addOffset s t offset).2.regs = s.regs := rfl
@[simp] theorem addOffset_hung : (addOffset s t offset).2.hung = s.hung := rfl

end Sys2Proof.Machine
end

