-- ==== Sys2Proof/Laws/Ops.lean ====
section
/-! SUPPORT. One lemma per shared operation that says what it can do: the checked arithmetic, the
length check of a reply, the two bus transactions, and the endings of a command. -/

namespace Sys2Proof.Machine

/-! ### Checked arithmetic -/

theorem chkField_of_fits {w : Nat} {v : Int} (h : fitsS w v = true) : chkField w v = .ok v := if_pos h

theorem chkField_of_not_fits {w : Nat} {v : Int} (h : fitsS w v = false) :
    chkField w v = .error .arithmeticOverflow := if_neg (by rw [h]; decide)

theorem chkField_eq_ok {w : Nat} {v x : Int} (h : chkField w v = .ok x) : fitsS w v = true ∧ x = v := by
  cases hf : fitsS w v with
  | true => rw [chkField_of_fits hf] at h; exact ⟨rfl, (Except.ok.inj h).symm⟩
  | false => rw [chkField_of_not_fits hf] at h; cases h

/-- A check followed by the rest of a stage, under the `fault` policy. -/
theorem chk_fault_bind {α : Type} (w : Nat) (v : Int) (k : Int → Except StageError α) :
    (chk .fault w v >>= k) = if fitsS w v then k v else .error .arithmeticOverflow := by
  unfold chk
  cases hf : fitsS w v with
  | true => rw [chkField_of_fits hf]; rfl
  | false => rw [chkField_of_not_fits hf]; rfl

/-- A check followed by the rest of a stage, under the `unbounded` policy. -/
theorem chk_unbounded_bind {α : Type} (w : Nat) (v : Int) (k : Int → Except StageError α) :
    (chk .unbounded w v >>= k) = k v := rfl

theorem fitsS_iff {w : Nat} {v : Int} :
    fitsS w v = true ↔ -(2 ^ (w - 1)) ≤ v ∧ v ≤ 2 ^ (w - 1) - 1 := by
  simp [fitsS]

/-- `>>` in the spelling `omega` knows. -/
theorem asr_eq_div (a : Int) (k : Nat) : asr a k = a / 2 ^ k := by
  unfold asr
  exact Int.fdiv_eq_ediv_of_nonneg _ (by positivity)

theorem divTrunc_eq_tdiv (a b : Int) : divTrunc a b = a.tdiv b := rfl

/-- A value that fits its two's-complement field is read back from it. -/
theorem toInt_ofInt_of_fitsS {w : Nat} {v : Int} (hw : 0 < w) (h : fitsS w v = true) :
    (BitVec.ofInt w v).toInt = v := by
  rw [fitsS_iff] at h
  rw [BitVec.toInt_ofInt]
  obtain ⟨n, rfl⟩ : ∃ n, w = n + 1 := ⟨w - 1, by omega⟩
  have hpow : (2 : Int) ^ (n + 1) = 2 * 2 ^ n := by ring
  simp only [Nat.add_sub_cancel] at h
  apply Int.bmod_eq_of_le
  · push_cast; rw [hpow]; omega
  · push_cast; rw [hpow]; omega

/-! ### Replies and transactions -/

/-- A reply is accepted only if it is `Ok` with the requested number of bytes. -/
theorem acceptBytes_of_length {n : Nat} {bs : List Byte} (h : bs.length = n) :
    acceptBytes n (.ok bs) = some bs := by
  simp [acceptBytes, h]

theorem busRead_accepted {s : State} {addr : RegAddr} {n : Nat} {k : State → List Byte → Reply}
    {answer : ReadAnswer} {s' : State} {bs : List Byte} (hd : drawRead s addr n = (answer, s'))
    (hb : acceptBytes n answer = some bs) :
    busRead s addr n k = traced (.read s.params.devAddr addr n answer) (k s' bs) := by
  simp [busRead, hd, hb, afterRead]

theorem busRead_failed {s : State} {addr : RegAddr} {n : Nat} {k : State → List Byte → Reply}
    {answer : ReadAnswer} {s' : State} (hd : drawRead s addr n = (answer, s'))
    (hb : acceptBytes n answer = none) :
    busRead s addr n k = traced (.read s.params.devAddr addr n answer) (raise s' .busError) := by
  simp [busRead, hd, hb, afterRead]

theorem busWrite_ok {s : State} {addr : RegAddr} {v : Byte} {k : State → Reply} {s' : State}
    (hd : drawWrite s addr v = (.ok, s')) :
    busWrite s addr v k = traced (.write s.params.devAddr addr v .ok) (k s') := by
  simp [busWrite, hd, afterWrite]

theorem busWrite_failed {s : State} {addr : RegAddr} {v : Byte} {k : State → Reply} {s' : State}
    (hd : drawWrite s addr v = (.fail, s')) :
    busWrite s addr v k = traced (.write s.params.devAddr addr v .fail) (raise s' .busError) := by
  simp [busWrite, hd, afterWrite]

/-- What follows a read: either it failed and BusError is raised, or the command goes on with the bytes
of the requested length. -/
theorem busRead_cases (s : State) (addr : RegAddr) (n : Nat) (k : State → List Byte → Reply) :
    ∃ answer s', drawRead s addr n = (answer, s') ∧
      ((acceptBytes n answer = none ∧
        busRead s addr n k = traced (.read s.params.devAddr addr n answer) (raise s' .busError)) ∨
      ∃ bs, answer = .ok bs ∧ bs.length = n ∧
        busRead s addr n k = traced (.read s.params.devAddr addr n answer) (k s' bs)) := by
  refine ⟨(drawRead s addr n).1, (drawRead s addr n).2, rfl, ?_⟩
  cases hb : acceptBytes n (drawRead s addr n).1 with
  | none => exact .inl ⟨rfl, busRead_failed rfl hb⟩
  | some bs =>
    refine .inr ⟨bs, ?_, ?_, busRead_accepted rfl hb⟩ <;>
    · revert hb
      unfold acceptBytes
      split
      · split
        · rename_i hlen
          intro hb
          cases hb
          assumption
        · intro hb; cases hb
      · intro hb; cases hb

/-- What follows a write: the command goes on, or BusError is raised. -/
theorem busWrite_cases (s : State) (addr : RegAddr) (v : Byte) (k : State → Reply) :
    ∃ answer s', drawWrite s addr v = (answer, s') ∧
      busWrite s addr v k = traced (.write s.params.devAddr addr v answer)
        (afterWrite s' answer k) :=
  ⟨(drawWrite s addr v).1, (drawWrite s addr v).2, rfl, rfl⟩

/-! ### Endings -/

theorem deliver_eq (r : Reply) : deliver r = .next (observe r.state r.result r.trace) := rfl

theorem onBus_hung {s : State} (r : Reply) (h : s.hung = true) : onBus s r = .fault .transportHung := by
  simp [onBus, h]

theorem onBus_answering {s : State} (r : Reply) (h : s.hung = false) : onBus s r = deliver r := by
  simp [onBus, h]

theorem ifCalibrated_valid {s : State} (body : Outcome) (h : s.calibValid = true) :
    ifCalibrated s body = body := by
  simp [ifCalibrated, h]

theorem ifCalibrated_not {s : State} (body : Outcome) (h : s.calibValid = false) :
    ifCalibrated s body = .next (observe s { status := 2#8 } []) := by
  simp [ifCalibrated, h, deliver_eq, raise, statusCode]

@[simp] theorem done_state (s : State) (r : Result) : (done s r).state = s := rfl
@[simp] theorem done_result (s : State) (r : Result) : (done s r).result = { r with status := 0#8 } := rfl
@[simp] theorem done_trace (s : State) (r : Result) : (done s r).trace = [] := rfl
@[simp] theorem raise_state (s : State) (e : Status) : (raise s e).state = s := rfl
@[simp] theorem raise_result (s : State) (e : Status) : (raise s e).result = { status := statusCode e } := rfl
@[simp] theorem raise_trace (s : State) (e : Status) : (raise s e).trace = [] := rfl
@[simp] theorem traced_state (ev : BusEvent) (r : Reply) : (traced ev r).state = r.state := rfl
@[simp] theorem traced_result (ev : BusEvent) (r : Reply) : (traced ev r).result = r.result := rfl
@[simp] theorem traced_trace (ev : BusEvent) (r : Reply) : (traced ev r).trace = ev :: r.trace := rfl

/-! ### The offset -/

@[simp] theorem addOffset_fresh (s : State) (t offset : Word) :
    (addOffset s t offset).2.fresh = s.fresh + nanDraws t offset := rfl

/-- Adding the offset moves nothing but the counter of free values, and never back. -/
theorem addOffset_state (s : State) (t offset : Word) :
    (addOffset s t offset).2 = { s with fresh := (addOffset s t offset).2.fresh } ∧
      s.fresh ≤ (addOffset s t offset).2.fresh :=
  ⟨rfl, Nat.le_add_right _ _⟩

/-- A sum that is no NaN draws nothing. -/
theorem addOffset_some {s : State} {t offset x : Word} (h : f32Add t offset = some x) :
    addOffset s t offset = (x, s) := by
  simp [addOffset, nanDraws, h]

/-- A NaN draws one free value. -/
theorem addOffset_none {s : State} {t offset : Word} (h : f32Add t offset = none) :
    addOffset s t offset = (quietNaN (Config.freeNaN s.fresh), { s with fresh := s.fresh + 1 }) := by
  simp [addOffset, nanDraws, h]

/-- Decoding a mode answers OK with the field's code and an ordinal, and moves nothing but the
counter. -/
theorem decodeModeInto_spec (s : State) (image : Byte) (res : Result) :
    ∃ (m n : Nat), m ≤ 2 ∧ s.fresh ≤ n ∧
      decodeModeInto s image res =
        done { s with fresh := n }
          { res with code := (modeField image).setWidth 8, mode := codeByte m } := by
  unfold decodeModeInto
  split
  · rename_i m hm
    refine ⟨m, s.fresh, ?_, Nat.le_refl _, rfl⟩
    revert hm
    unfold modeOrdinal
    split <;> try (intro hm; simp only [Option.some.injEq] at hm; omega)
    cases s.params.mode10Decode <;> simp [mode10Ordinal] <;> omega
  · exact ⟨(Config.freeMode s.fresh).val, s.fresh + 1, by omega, Nat.le_succ _, rfl⟩

end Sys2Proof.Machine
end

