-- ==== Sys2Proof/Laws/Exec.lean ====
section
/-! SUPPORT. What `exec` can do, said once: a command is stuck, or it delivers one reply. Then what a
reply keeps of the state, so that no later proof unfolds a meaning. -/

namespace Sys2Proof.Machine

/-- The reply of a command whose transport answers. -/
def replyOf (i : Instr) (s : State) : Reply :=
  match i with
  | .loadCalib => if s.calibValid then raise s .calibrationLocked else loadSpans s
  | .compT rawT =>
    if s.calibValid then
      stageReply s (temperature s.params.overflowPolicy s.calib rawT) withTemperature
    else raise s .uncalibratedAccess
  | .compP rawP tfine =>
    if s.calibValid then
      stageReply s (pressure s.params.overflowPolicy s.calib rawP tfine) withPressure
    else raise s .uncalibratedAccess
  | .compH rawH tfine =>
    if s.calibValid then
      stageReply s (humidity s.params.overflowPolicy s.calib rawH tfine) withHumidity
    else raise s .uncalibratedAccess
  | .compAll burst offset =>
    if s.calibValid then pipeline s burst offset else raise s .uncalibratedAccess
  | .readAll offset =>
    if s.calibValid then busRead s 0xF7#8 8 fun s r => pipeline s (burstOfBytes r) offset
    else raise s .uncalibratedAccess
  | .readBusy => busRead s 0xF3#8 1 fun s r =>
      done s { byte := byteAt r 0, flag := busyFlag (byteAt r 0) }
  | .readMode => busRead s 0xF4#8 1 fun s r =>
      decodeModeInto s (byteAt r 0) { byte := byteAt r 0 }
  | .readChipId => busRead s 0xD0#8 1 fun s r => done s { byte := byteAt r 0 }
  | .writeCtrlHum osH => writeImage s 0xF2#8 (ctrlHumImage osH)
  | .writeCtrlMeas osT osP mode => writeImage s 0xF4#8 (ctrlMeasImage osT osP mode)
  | .writeConfig standby filter => writeImage s 0xF5#8 (configImage standby filter)
  | .softReset => writeImage s 0xE0#8 0xB6#8
  | .encOs ord => done s { code := codeByte (osCode ord) }
  | .encOsCount count => done s { code := codeByte (osCountCode count) }
  | .encMode ord => done s { code := codeByte (modeCode ord) }
  | .encFilter ord => done s { code := codeByte (fltCode ord) }
  | .encStandby ord => done s { code := codeByte (sbCode ord) }
  | .encCtrlMeas osT osP mode => done s { byte := ctrlMeasImage osT osP mode }
  | .encConfig standby filter => done s { byte := configImage standby filter }
  | .encCtrlHum osH => done s { byte := ctrlHumImage osH }
  | .decMode image => decodeModeInto s image {}
  | .decBusy image => done s { flag := busyFlag image }
  | .parseBurst burst => done s (withRaw burst {})

/-- The command comes to a transaction: LOAD_CALIB unless it is locked, READ_ALL only with a valid
store, the other bus commands always. -/
def reachesBus (i : Instr) (valid : Bool) : Bool :=
  match i with
  | .loadCalib => !valid
  | .compT _ => false
  | .compP _ _ => false
  | .compH _ _ => false
  | .compAll _ _ => false
  | .readAll _ => valid
  | .readBusy => true
  | .readMode => true
  | .readChipId => true
  | .writeCtrlHum _ => true
  | .writeCtrlMeas _ _ _ => true
  | .writeConfig _ _ => true
  | .softReset => true
  | .encOs _ => false
  | .encOsCount _ => false
  | .encMode _ => false
  | .encFilter _ => false
  | .encStandby _ => false
  | .encCtrlMeas _ _ _ => false
  | .encConfig _ _ => false
  | .encCtrlHum _ => false
  | .decMode _ => false
  | .decBusy _ => false
  | .parseBurst _ => false

/-- The command comes to a transaction and the transport never answers. -/
def stuck (i : Instr) (s : State) : Bool := s.hung && reachesBus i s.calibValid

/-- A compensation command: the calibration test, then a body that issues no transaction. -/
theorem ifCalibrated_deliver (s : State) (r : Reply) :
    ifCalibrated s (deliver r) = deliver (if s.calibValid then r else raise s .uncalibratedAccess) := by
  unfold ifCalibrated
  split <;> rfl

/-- Everything `exec` can do. -/
theorem exec_eq (i : Instr) (s : State) :
    exec i s = if stuck i s then .fault .transportHung else deliver (replyOf i s) := by
  have plain : ∀ {o : Outcome} {r : Reply} {b : Bool}, b = false → o = deliver r →
      o = if s.hung && b then .fault .transportHung else deliver r := by
    rintro o r b rfl rfl
    cases s.hung <;> rfl
  have bus : ∀ {r r' : Reply} {b : Bool}, b = true → r = r' →
      onBus s r = if s.hung && b then .fault .transportHung else deliver r' := by
    rintro r r' b rfl rfl
    rw [Bool.and_true, onBus]
  cases i with
  | loadCalib =>
    show (if s.calibValid then deliver (raise s .calibrationLocked) else onBus s (loadSpans s)) = _
    cases hv : s.calibValid
    · rw [if_neg Bool.false_ne_true]
      exact bus (by rw [reachesBus, hv]; rfl) (by rw [replyOf, hv]; rfl)
    · rw [if_pos rfl]
      exact plain (by rw [reachesBus, hv]; rfl) (by rw [replyOf, hv]; rfl)
  | readAll offset =>
    rw [show exec (.readAll offset) s = execReadAll offset s from rfl, execReadAll, ifCalibrated]
    cases hv : s.calibValid
    · rw [if_neg Bool.false_ne_true]
      exact plain (by rw [reachesBus, hv]) (by rw [replyOf, hv]; rfl)
    · rw [if_pos rfl]
      exact bus (by rw [reachesBus, hv]) (by rw [replyOf, hv]; rfl)
  | compT v =>
    exact plain (b := false) rfl (ifCalibrated_deliver s _)
  | compP v k =>
    exact plain (b := false) rfl (ifCalibrated_deliver s _)
  | compH v k =>
    exact plain (b := false) rfl (ifCalibrated_deliver s _)
  | compAll z o =>
    exact plain (b := false) rfl (ifCalibrated_deliver s _)
  | readBusy => exact bus (b := true) rfl rfl
  | readMode => exact bus (b := true) rfl rfl
  | readChipId => exact bus (b := true) rfl rfl
  | writeCtrlHum v => exact bus (b := true) rfl rfl
  | writeCtrlMeas v w x => exact bus (b := true) rfl rfl
  | writeConfig v w => exact bus (b := true) rfl rfl
  | softReset => exact bus (b := true) rfl rfl
  | encOs v => exact plain (b := false) (r := replyOf (.encOs v) s) rfl rfl
  | encOsCount v => exact plain (b := false) (r := replyOf (.encOsCount v) s) rfl rfl
  | encMode v => exact plain (b := false) (r := replyOf (.encMode v) s) rfl rfl
  | encFilter v => exact plain (b := false) (r := replyOf (.encFilter v) s) rfl rfl
  | encStandby v => exact plain (b := false) (r := replyOf (.encStandby v) s) rfl rfl
  | encCtrlMeas v w x => exact plain (b := false) (r := replyOf (.encCtrlMeas v w x) s) rfl rfl
  | encConfig v w => exact plain (b := false) (r := replyOf (.encConfig v w) s) rfl rfl
  | encCtrlHum v => exact plain (b := false) (r := replyOf (.encCtrlHum v) s) rfl rfl
  | decMode y => exact plain (b := false) (r := replyOf (.decMode y) s) rfl rfl
  | decBusy y => exact plain (b := false) (r := replyOf (.decBusy y) s) rfl rfl
  | parseBurst z => exact plain (b := false) (r := replyOf (.parseBurst z) s) rfl rfl

/-- A command that answers a next state delivered its reply. -/
theorem exec_next {i : Instr} {s t : State} (h : exec i s = .next t) :
    stuck i s = false ∧
      t = observe (replyOf i s).state (replyOf i s).result (replyOf i s).trace := by
  rw [exec_eq] at h
  split at h
  · cases h
  · rename_i hs
    exact ⟨by simpa using hs, (Host.Outcome.next.inj h).symm⟩

/-! ### What a reply keeps -/

/-- The parts of the state no command changes before its result is delivered, and the counter of free
values never going back. -/
structure Keeps (s : State) (r : Reply) : Prop where
  params : r.state.params = s.params
  inputs : r.state.inputs = s.inputs
  observed : r.state.observed = s.observed
  hung : r.state.hung = s.hung
  fresh : s.fresh ≤ r.state.fresh

theorem drawRead_fresh_le (s : State) (addr : RegAddr) (n : Nat) :
    s.fresh ≤ (drawRead s addr n).2.fresh := by
  unfold drawRead
  split <;> first | exact Nat.le_refl _ | exact Nat.le_succ _

theorem drawWrite_fresh_le (s : State) (addr : RegAddr) (v : Byte) :
    s.fresh ≤ (drawWrite s addr v).2.fresh := by
  unfold drawWrite
  split <;> first | exact Nat.le_refl _ | exact Nat.le_succ _

theorem Keeps.done (s : State) (r : Result) : Keeps s (done s r) := ⟨rfl, rfl, rfl, rfl, Nat.le_refl _⟩

theorem Keeps.raise (s : State) (e : Status) : Keeps s (raise s e) := ⟨rfl, rfl, rfl, rfl, Nat.le_refl _⟩

theorem Keeps.traced {s : State} {r : Reply} (ev : BusEvent) (h : Keeps s r) : Keeps s (traced ev r) :=
  ⟨h.params, h.inputs, h.observed, h.hung, h.fresh⟩

theorem Keeps.stageReply (s : State) (stage : Stage) (f : Int → Result → Result) :
    Keeps s (stageReply s stage f) := by
  cases stage <;> exact ⟨rfl, rfl, rfl, rfl, Nat.le_refl _⟩

theorem Keeps.decodeModeInto (s : State) (image : Byte) (res : Result) :
    Keeps s (decodeModeInto s image res) := by
  obtain ⟨m, n, -, hn, h⟩ := decodeModeInto_spec s image res
  rw [h]
  exact ⟨rfl, rfl, rfl, rfl, hn⟩

/-- The body of COMP_ALL either raises the temperature's error, or ends with a result and nothing of
the state moved but the counter of free values. -/
theorem pipeline_cases (s : State) (x : Burst) (offset : Word) :
    (∃ e, temperature s.params.overflowPolicy s.calib (burstRawT x).toNat = .error e ∧
      pipeline s x offset = raise s (stageStatus e)) ∨
    (∃ t, temperature s.params.overflowPolicy s.calib (burstRawT x).toNat = .ok t ∧
      pipeline s x offset = done (addOffset s (rne32 t 5120) offset).2
        (humidityInto (humidity s.params.overflowPolicy s.calib (burstRawH x).toNat t)
          (pressureInto (pressure s.params.overflowPolicy s.calib (burstRawP x).toNat t)
            { withTemperature t (withRaw x {}) with
              tCorrF32 := (addOffset s (rne32 t 5120) offset).1 }))) := by
  unfold pipeline
  cases h : temperature s.params.overflowPolicy s.calib (burstRawT x).toNat with
  | error e => exact .inl ⟨e, rfl, rfl⟩
  | ok t => exact .inr ⟨t, rfl, rfl⟩

theorem Keeps.pipeline (s : State) (x : Burst) (offset : Word) : Keeps s (pipeline s x offset) := by
  obtain ⟨_, -, h⟩ | ⟨_, -, h⟩ := pipeline_cases s x offset <;> rw [h]
  · exact Keeps.raise _ _
  · exact ⟨rfl, rfl, rfl, rfl, Nat.le_add_right _ _⟩

theorem Keeps.busRead {s : State} {addr : RegAddr} {n : Nat} {k : State → List Byte → Reply}
    (hk : ∀ s' bs, Keeps s' (k s' bs)) : Keeps s (busRead s addr n k) := by
  have start : ∀ r, Keeps (drawRead s addr n).2 r → Keeps s r := fun r h =>
    ⟨by rw [h.params]; simp, by rw [h.inputs]; simp, by rw [h.observed]; simp, by rw [h.hung]; simp,
      (drawRead_fresh_le ..).trans h.fresh⟩
  unfold Machine.busRead
  refine Keeps.traced _ (start _ ?_)
  unfold afterRead
  split
  · exact hk _ _
  · exact Keeps.raise _ _

theorem Keeps.busWrite {s : State} {addr : RegAddr} {v : Byte} {k : State → Reply}
    (hk : ∀ s', Keeps s' (k s')) : Keeps s (busWrite s addr v k) := by
  have start : ∀ r, Keeps (drawWrite s addr v).2 r → Keeps s r := fun r h =>
    ⟨by rw [h.params]; simp, by rw [h.inputs]; simp, by rw [h.observed]; simp, by rw [h.hung]; simp,
      (drawWrite_fresh_le ..).trans h.fresh⟩
  unfold Machine.busWrite
  refine Keeps.traced _ (start _ ?_)
  unfold afterWrite
  split
  · exact hk _
  · exact Keeps.raise _ _

theorem Keeps.loadSpans (s : State) : Keeps s (loadSpans s) :=
  .busRead fun _ _ => .busRead fun _ _ => .busRead fun _ _ => ⟨rfl, rfl, rfl, rfl, Nat.le_refl _⟩

/-- Every reply keeps the parameters, the port, what the host was given, and the transport. -/
theorem replyOf_keeps (i : Instr) (s : State) : Keeps s (replyOf i s) := by
  cases i <;> simp only [replyOf]
  case loadCalib => split <;> [exact .raise ..; exact .loadSpans s]
  case readAll => split <;> [exact .busRead fun _ _ => .pipeline ..; exact .raise ..]
  case compAll => split <;> [exact .pipeline ..; exact .raise ..]
  case readBusy => exact .busRead fun _ _ => .done ..
  case readMode => exact .busRead fun _ _ => .decodeModeInto ..
  case readChipId => exact .busRead fun _ _ => .done ..
  case decMode => exact .decodeModeInto ..
  all_goals first
    | exact .done ..
    | exact .busWrite fun _ => .done ..
    | (split <;> [exact .stageReply ..; exact .raise ..])

/-! ### What a reply does to the store, the oracle and the image -/

/-- The store and its flag are as before. -/
def StoreKept (s : State) (r : Reply) : Prop :=
  r.state.calib = s.calib ∧ r.state.calibValid = s.calibValid

theorem StoreKept.pipeline (s : State) (x : Burst) (offset : Word) :
    StoreKept s (pipeline s x offset) := by
  obtain ⟨_, -, h⟩ | ⟨_, -, h⟩ := pipeline_cases s x offset <;> rw [h] <;> exact ⟨rfl, rfl⟩

theorem StoreKept.decodeModeInto (s : State) (image : Byte) (res : Result) :
    StoreKept s (decodeModeInto s image res) := by
  obtain ⟨m, n, -, -, h⟩ := decodeModeInto_spec s image res
  rw [h]
  exact ⟨rfl, rfl⟩

theorem StoreKept.stageReply (s : State) (stage : Stage) (f : Int → Result → Result) :
    StoreKept s (stageReply s stage f) := by
  cases stage <;> exact ⟨rfl, rfl⟩

theorem StoreKept.busRead {s : State} {addr : RegAddr} {n : Nat} {k : State → List Byte → Reply}
    (hk : ∀ s' bs, StoreKept s' (k s' bs)) : StoreKept s (busRead s addr n k) := by
  have hc := drawRead_calib s addr n
  have hv := drawRead_calibValid s addr n
  obtain ⟨answer, s', hd, ⟨-, h⟩ | ⟨bs, -, -, h⟩⟩ := busRead_cases s addr n k
  · rw [hd] at hc hv
    rw [h]
    exact ⟨hc, hv⟩
  · rw [hd] at hc hv
    rw [h]
    exact ⟨(hk s' bs).1.trans hc, (hk s' bs).2.trans hv⟩

theorem StoreKept.busWrite {s : State} {addr : RegAddr} {v : Byte} {k : State → Reply}
    (hk : ∀ s', StoreKept s' (k s')) : StoreKept s (busWrite s addr v k) := by
  have hc := drawWrite_calib s addr v
  have hv := drawWrite_calibValid s addr v
  obtain ⟨answer, s', hd, h⟩ := busWrite_cases s addr v k
  rw [hd] at hc hv
  rw [h]
  cases answer
  · exact ⟨(hk s').1.trans hc, (hk s').2.trans hv⟩
  · exact ⟨hc, hv⟩

/-- Every command but LOAD_CALIB leaves the store and its flag alone. -/
theorem replyOf_storeKept (i : Instr) (s : State) (h : i ≠ .loadCalib) : StoreKept s (replyOf i s) := by
  cases i <;> simp only [replyOf]
  case loadCalib => exact absurd rfl h
  case readAll => split <;> [exact .busRead fun _ _ => .pipeline ..; exact ⟨rfl, rfl⟩]
  case compAll => split <;> [exact .pipeline ..; exact ⟨rfl, rfl⟩]
  case readMode => exact .busRead fun _ _ => .decodeModeInto ..
  case decMode => exact .decodeModeInto ..
  case readBusy => exact .busRead fun _ _ => ⟨rfl, rfl⟩
  case readChipId => exact .busRead fun _ _ => ⟨rfl, rfl⟩
  all_goals first
    | exact ⟨rfl, rfl⟩
    | exact .busWrite fun _ => ⟨rfl, rfl⟩
    | (split <;> [exact .stageReply ..; exact ⟨rfl, rfl⟩])

/-- A command that reaches no bus leaves the oracle and the register image alone. -/
theorem replyOf_notBus (i : Instr) (s : State) (h : isBus i = false) :
    (replyOf i s).state.oracle = s.oracle ∧ (replyOf i s).state.regs = s.regs := by
  cases i <;> simp [isBus] at h <;> simp only [replyOf]
  case compAll x offset =>
    split <;> [skip; exact ⟨rfl, rfl⟩]
    obtain ⟨_, -, h⟩ | ⟨_, -, h⟩ := pipeline_cases s x offset <;> rw [h] <;> exact ⟨rfl, rfl⟩
  case decMode image =>
    obtain ⟨m, n, -, -, h⟩ := decodeModeInto_spec s image {}
    rw [h]
    exact ⟨rfl, rfl⟩
  all_goals first
    | exact ⟨rfl, rfl⟩
    | (split <;> [(unfold stageReply; split <;> exact ⟨rfl, rfl⟩); exact ⟨rfl, rfl⟩])

/-- LOAD_CALIB's three reads: one of them fails, is the last event, and the store stays; or all succeed
and the store and its flag are written. -/
theorem loadSpans_cases (s : State) :
    (StoreKept s (loadSpans s) ∧ (loadSpans s).result = { status := 1#8 } ∧
      (∃ e, (loadSpans s).trace.getLast? = some e ∧ eventFailed e = true) ∧
      ∀ e ∈ (loadSpans s).trace.dropLast, eventFailed e = false) ∨
    ∃ a h e : List Byte, a.length = 24 ∧ h.length = 1 ∧ e.length = 7 ∧ (loadSpans s).result = {} ∧
      (loadSpans s).trace = [.read s.params.devAddr 0x88#8 24 (.ok a),
        .read s.params.devAddr 0xA1#8 1 (.ok h), .read s.params.devAddr 0xE1#8 7 (.ok e)] ∧
      (loadSpans s).state.calib = assemble s.params.h45SignExtend a h e ∧
      (loadSpans s).state.calibValid = true := by
  unfold loadSpans
  have c1 := drawRead_calib s calSpanA calSpanALen
  have v1 := drawRead_calibValid s calSpanA calSpanALen
  have p1 := drawRead_params s calSpanA calSpanALen
  obtain ⟨ra, s1, d1, ⟨n1, h1⟩ | ⟨a, rfl, l1, h1⟩⟩ := busRead_cases s calSpanA calSpanALen fun s a =>
    busRead s calSpanH1 calSpanH1Len fun s h =>
      busRead s calSpanB calSpanBLen fun s e => done (commitCalib s a h e) {}
  · left
    rw [h1]
    simp_all [eventFailed, statusCode, StoreKept]
  have c2 := drawRead_calib s1 calSpanH1 calSpanH1Len
  have v2 := drawRead_calibValid s1 calSpanH1 calSpanH1Len
  have p2 := drawRead_params s1 calSpanH1 calSpanH1Len
  obtain ⟨rh, s2, d2, ⟨n2, h2⟩ | ⟨h, rfl, l2, h2⟩⟩ := busRead_cases s1 calSpanH1 calSpanH1Len fun s h =>
    busRead s calSpanB calSpanBLen fun s e => done (commitCalib s a h e) {}
  · left
    rw [h1, h2]
    simp_all [eventFailed, statusCode, acceptBytes, StoreKept]
  have c3 := drawRead_calib s2 calSpanB calSpanBLen
  have v3 := drawRead_calibValid s2 calSpanB calSpanBLen
  have p3 := drawRead_params s2 calSpanB calSpanBLen
  obtain ⟨rb, s3, d3, ⟨n3, h3⟩ | ⟨e, rfl, l3, h3⟩⟩ := busRead_cases s2 calSpanB calSpanBLen fun s e =>
    done (commitCalib s a h e) {}
  · left
    rw [h1, h2, h3]
    simp_all [eventFailed, statusCode, acceptBytes, StoreKept]
  · right
    rw [d1] at p1
    rw [d2] at p2
    rw [d3] at p3
    simp only at p1 p2 p3
    refine ⟨a, h, e, l1, l2, l3, ?_⟩
    rw [h1, h2, h3]
    simp [p1, p2, p3]

end Sys2Proof.Machine
end

