-- ==== Sys2Proof/Laws/PerInstr.lean ====
section
/-! SUPPORT. Statements made instruction by instruction. OpcodeLegal: the opcode an instruction is encoded
with is a row of the opcode map (30_encoding.md R82), and decodes to an instruction of the same row. -/

namespace Sys2Proof.Laws.OpcodeLegal

/-- The instruction's encoding carries a legal opcode, and what is decoded from it has that opcode. -/
def Statement (i : Instr) : Prop :=
  (encode i).opcode ∈ opcodes ∧ ∃ j, decode (encode i) = .ok j ∧ opcodeOf j = opcodeOf i

theorem loadCalib : Statement (.loadCalib) := ⟨by simp [encode, opcodeOf, opcodes], _, rfl, rfl⟩
theorem compT (a : Nat) : Statement (.compT a) := ⟨by simp [encode, opcodeOf, opcodes], _, rfl, rfl⟩
theorem compP (a : Nat) (b : Int) : Statement (.compP a b) := ⟨by simp [encode, opcodeOf, opcodes], _, rfl, rfl⟩
theorem compH (a : Nat) (b : Int) : Statement (.compH a b) := ⟨by simp [encode, opcodeOf, opcodes], _, rfl, rfl⟩
theorem compAll (a : Burst) (b : Word) : Statement (.compAll a b) := ⟨by simp [encode, opcodeOf, opcodes], _, rfl, rfl⟩
theorem readAll (a : Word) : Statement (.readAll a) := ⟨by simp [encode, opcodeOf, opcodes], _, rfl, rfl⟩
theorem readBusy : Statement (.readBusy) := ⟨by simp [encode, opcodeOf, opcodes], _, rfl, rfl⟩
theorem readMode : Statement (.readMode) := ⟨by simp [encode, opcodeOf, opcodes], _, rfl, rfl⟩
theorem readChipId : Statement (.readChipId) := ⟨by simp [encode, opcodeOf, opcodes], _, rfl, rfl⟩
theorem writeCtrlHum (a : Nat) : Statement (.writeCtrlHum a) := ⟨by simp [encode, opcodeOf, opcodes], _, rfl, rfl⟩
theorem writeCtrlMeas (a b c : Nat) : Statement (.writeCtrlMeas a b c) := ⟨by simp [encode, opcodeOf, opcodes], _, rfl, rfl⟩
theorem writeConfig (a b : Nat) : Statement (.writeConfig a b) := ⟨by simp [encode, opcodeOf, opcodes], _, rfl, rfl⟩
theorem softReset : Statement (.softReset) := ⟨by simp [encode, opcodeOf, opcodes], _, rfl, rfl⟩
theorem encOs (a : Nat) : Statement (.encOs a) := ⟨by simp [encode, opcodeOf, opcodes], _, rfl, rfl⟩
theorem encOsCount (a : Nat) : Statement (.encOsCount a) := ⟨by simp [encode, opcodeOf, opcodes], _, rfl, rfl⟩
theorem encMode (a : Nat) : Statement (.encMode a) := ⟨by simp [encode, opcodeOf, opcodes], _, rfl, rfl⟩
theorem encFilter (a : Nat) : Statement (.encFilter a) := ⟨by simp [encode, opcodeOf, opcodes], _, rfl, rfl⟩
theorem encStandby (a : Nat) : Statement (.encStandby a) := ⟨by simp [encode, opcodeOf, opcodes], _, rfl, rfl⟩
theorem encCtrlMeas (a b c : Nat) : Statement (.encCtrlMeas a b c) := ⟨by simp [encode, opcodeOf, opcodes], _, rfl, rfl⟩
theorem encConfig (a b : Nat) : Statement (.encConfig a b) := ⟨by simp [encode, opcodeOf, opcodes], _, rfl, rfl⟩
theorem encCtrlHum (a : Nat) : Statement (.encCtrlHum a) := ⟨by simp [encode, opcodeOf, opcodes], _, rfl, rfl⟩
theorem decMode (a : Byte) : Statement (.decMode a) := ⟨by simp [encode, opcodeOf, opcodes], _, rfl, rfl⟩
theorem decBusy (a : Byte) : Statement (.decBusy a) := ⟨by simp [encode, opcodeOf, opcodes], _, rfl, rfl⟩
theorem parseBurst (a : Burst) : Statement (.parseBurst a) := ⟨by simp [encode, opcodeOf, opcodes], _, rfl, rfl⟩

end Sys2Proof.Laws.OpcodeLegal
end

