-- ==== Sys2Proof/Tests/Slice0.lean ====
section
/-! SUPPORT. The model's own tests: ill-formed terms refused, every row decoded from a word written out
from 30_encoding.md R80 to R82, vectors of 95_test_vectors.md on one step each, and for every obligation
with hypotheses a witness that meets them. Every expected value stands in spec/. -/

namespace Sys2Proof.Machine.Tests

/-! ### WellFormed refuses -/

theorem test_wf_compT_raw : (Instr.compT 0x100000).wf = false := by decide
theorem test_wf_compP_raw : (Instr.compP 0x100000 0).wf = false := by decide
theorem test_wf_compP_tfine_high : (Instr.compP 0 0x80000000).wf = false := by decide
theorem test_wf_compP_tfine_low : (Instr.compP 0 (-0x80000001)).wf = false := by decide
theorem test_wf_compH_raw : (Instr.compH 0x10000 0).wf = false := by decide
theorem test_wf_compH_tfine_high : (Instr.compH 0 0x80000000).wf = false := by decide
theorem test_wf_compH_tfine_low : (Instr.compH 0 (-0x80000001)).wf = false := by decide
theorem test_wf_ordinals :
    (Instr.writeCtrlHum (2 ^ 32)).wf = false ∧ (Instr.writeCtrlMeas (2 ^ 32) 0 0).wf = false ∧
    (Instr.writeCtrlMeas 0 (2 ^ 32) 0).wf = false ∧ (Instr.writeCtrlMeas 0 0 (2 ^ 32)).wf = false ∧
    (Instr.writeConfig (2 ^ 32) 0).wf = false ∧ (Instr.writeConfig 0 (2 ^ 32)).wf = false ∧
    (Instr.encOs (2 ^ 32)).wf = false ∧ (Instr.encOsCount (2 ^ 32)).wf = false ∧
    (Instr.encMode (2 ^ 32)).wf = false ∧ (Instr.encFilter (2 ^ 32)).wf = false ∧
    (Instr.encStandby (2 ^ 32)).wf = false ∧ (Instr.encCtrlMeas (2 ^ 32) 0 0).wf = false ∧
    (Instr.encCtrlMeas 0 (2 ^ 32) 0).wf = false ∧ (Instr.encCtrlMeas 0 0 (2 ^ 32)).wf = false ∧
    (Instr.encConfig (2 ^ 32) 0).wf = false ∧ (Instr.encConfig 0 (2 ^ 32)).wf = false ∧
    (Instr.encCtrlHum (2 ^ 32)).wf = false := by decide

/-! ### Decoding, from words written out: C, then B, then A, then the opcode -/

theorem test_dec_loadCalib : decodeTableWord 8 0x10 = some .loadCalib := by decide
theorem test_dec_compT :
    decodeTableWord 104 0x00000000_00000000_FFF7EED0_20 = some (.compT 519888) := by decide
theorem test_dec_compP :
    decodeTableWord 104 0x00000000_FFF4FE6B_000655AC_21 = some (.compP 415148 (-721301)) := by decide
theorem test_dec_compH :
    decodeTableWord 104 0x00000000_0001F5A6_FFFF5DC0_22 = some (.compH 24000 128422) := by decide
theorem test_dec_compAll : decodeTableWord 104 0xBFC00000_ED005DC0_655AC07E_23 =
    some (.compAll ⟨0x65, 0x5A, 0xC0, 0x7E, 0xED, 0x00, 0x5D, 0xC0⟩ 0xBFC00000#32) := by decide
theorem test_dec_readAll :
    decodeTableWord 104 0xBFC00000_00000000_00000000_30 = some (.readAll 0xBFC00000#32) := by decide
theorem test_dec_readBusy : decodeTableWord 8 0x31 = some .readBusy := by decide
theorem test_dec_readMode : decodeTableWord 8 0x32 = some .readMode := by decide
theorem test_dec_readChipId : decodeTableWord 8 0x33 = some .readChipId := by decide
theorem test_dec_writeCtrlHum :
    decodeTableWord 40 0x00000009_38 = some (.writeCtrlHum 9) := by decide
theorem test_dec_writeCtrlMeas :
    decodeTableWord 104 0x00000003_00000002_00000001_39 = some (.writeCtrlMeas 1 2 3) := by decide
theorem test_dec_writeConfig :
    decodeTableWord 72 0x00000004_00000005_3A = some (.writeConfig 5 4) := by decide
theorem test_dec_softReset : decodeTableWord 8 0x3B = some .softReset := by decide
theorem test_dec_encOs : decodeTableWord 40 0x00000106_40 = some (.encOs 0x106) := by decide
theorem test_dec_encOsCount : decodeTableWord 40 0x0000000C_41 = some (.encOsCount 12) := by decide
theorem test_dec_encMode : decodeTableWord 40 0xFFFFFFFF_42 = some (.encMode 4294967295) := by decide
theorem test_dec_encFilter : decodeTableWord 40 0x00000002_43 = some (.encFilter 2) := by decide
theorem test_dec_encStandby : decodeTableWord 40 0x00000005_44 = some (.encStandby 5) := by decide
theorem test_dec_encCtrlMeas :
    decodeTableWord 104 0x00000001_00000005_00000002_45 = some (.encCtrlMeas 2 5 1) := by decide
theorem test_dec_encConfig :
    decodeTableWord 72 0x00000004_00000000_46 = some (.encConfig 0 4) := by decide
theorem test_dec_encCtrlHum : decodeTableWord 40 0x00000006_47 = some (.encCtrlHum 6) := by decide
theorem test_dec_decMode : decodeTableWord 40 0x00000102_48 = some (.decMode 0x02#8) := by decide
theorem test_dec_decBusy : decodeTableWord 40 0x00000108_49 = some (.decBusy 0x08#8) := by decide
theorem test_dec_parseBurst : decodeTableWord 72 0x9ABCDEF0_12345678_4A =
    some (.parseBurst ⟨0x12, 0x34, 0x56, 0x78, 0x9A, 0xBC, 0xDE, 0xF0⟩) := by decide
/-- Illegal opcodes of 95_test_vectors.md section 2.6, and the first of 95_test_vectors.md P2 step 8. -/
theorem test_dec_illegal : [0x00, 0x11, 0x24, 0x34, 0x3C, 0x4B, 0xFF, 0x7F].map (decodeTableWord 8) =
    List.replicate 8 none := by decide

/-! ### A small state -/

/-- The test calibration (95_test_vectors.md section 0). -/
def cal : Calib := ⟨27504, 26435, -1000, 36477, -10685, 3024, 2855, 140, -7, 15500, -14600, 6000,
  75, 362, 0, 324, 0, 30⟩

/-- The default parameters at some device address. -/
def par : Params := ⟨0x76, .fault, false, .forced⟩

/-- A state with a store, its flag, and the draws of the oracle. -/
def st (c : Calib) (valid : Bool) (reads : List ReadAnswer) (writes : List WriteAnswer) : State :=
  { State.reset with params := par, calib := c, calibValid := valid, oracle := .draws reads writes }

/-- A state with a valid test calibration. -/
def ready : State := st cal true [] []

/-- One step on one command: the observation it adds. -/
def answer (s : State) (op : Byte) (a b c : Word) : Option Observation :=
  match step (present s ⟨op, a, b, c⟩) with
  | .next t => t.observed.getLast?
  | _ => none

/-- One step on one command: the store and its flag after it. -/
def storeAfter (s : State) (op : Byte) (a b c : Word) : Option (Calib × Bool) :=
  match step (present s ⟨op, a, b, c⟩) with
  | .next t => some (t.calib, t.calibValid)
  | _ => none

/-- Span A of the register image (95_test_vectors.md section 3). -/
def spanA : List Byte :=
  [0x70, 0x6B, 0x43, 0x67, 0x18, 0xFC, 0x7D, 0x8E, 0x43, 0xD6, 0xD0, 0x0B,
   0x27, 0x0B, 0x8C, 0x00, 0xF9, 0xFF, 0x8C, 0x3C, 0xF8, 0xC6, 0x70, 0x17]

/-- Span B of the register image. -/
def spanB : List Byte := [0x6A, 0x01, 0x00, 0x14, 0x04, 0x00, 0x1E]

/-- The measurement burst of the register image. -/
def burst : List Byte := [0x65, 0x5A, 0xC0, 0x7E, 0xED, 0x00, 0x5D, 0xC0]

/-- The record of the reference measurement with offset -1.5 (95_test_vectors.md section 2.3). -/
def reference : Result :=
  { tfine := 128422, tF32 := 0x41C8A8CD, tCorrF32 := 0x41BCA8CD, pQ8 := 25767233, pF32 := 0x47C496A0,
    hQ10 := 18838, hF32 := 0x41932C00, rawP := 415148, rawT := 519888, rawH := 24000 }

/-! ### LOAD_CALIB (95_test_vectors.md C-1, C-5) -/

theorem test_load : storeAfter (st Calib.zero false [.ok spanA, .ok [0x4B], .ok spanB] [])
    0x10 0 0 0 = some (cal, true) := by decide
theorem test_load_short_third :
    answer (st Calib.zero false [.ok spanA, .ok [0x4B], .ok (spanB.take 6)] []) 0x10 0 0 0 =
      some ⟨{ status := 1 }, [.read 0x76 0x88 24 (.ok spanA), .read 0x76 0xA1 1 (.ok [0x4B]),
        .read 0x76 0xE1 7 (.ok (spanB.take 6))]⟩ := by decide

/-! ### Compensation (95_test_vectors.md section 2.3, L1-3; 60_exceptions.md R288) -/

theorem test_compT : answer ready 0x20 519888 0 0 =
    some ⟨{ tfine := 128422, tF32 := 0x41C8A8CD }, []⟩ := by decide
theorem test_compT_overflow : answer (st { cal with t1 := 0 } true [] []) 0x20 0xFFFFF 0 0 =
    some ⟨{ status := 5 }, []⟩ := by decide
theorem test_compP_negative : answer ready 0x21 0xFFFFF 128422 0 =
    some ⟨{ pQ8 := BitVec.ofInt 64 (-1697504), pF32 := 0xC5CF3700 }, []⟩ := by decide
theorem test_compP_overflow_before_zero :
    answer (st { cal with p1 := 0 } true [] []) 0x21 415148 0x80000000 0 =
      some ⟨{ status := 5 }, []⟩ := by decide
theorem test_compH_below_zero : answer ready 0x22 24000 0xFFF4FE6B 0 =
    some ⟨{ hQ10 := 11855, hF32 := 0x41393C00 }, []⟩ := by decide
theorem test_compH_top : answer ready 0x22 65535 960246 0 =
    some ⟨{ hQ10 := 102400, hF32 := 0x42C80000 }, []⟩ := by decide
theorem test_compAll : answer ready 0x23 0x655AC07E 0xED005DC0 0xBFC00000 =
    some ⟨reference, []⟩ := by decide
theorem test_compAll_stage_errors :
    answer (st { cal with p1 := 0, h4 := 2048 } true [] []) 0x23 0x655AC07E 0xED005DC0 0xC1C8A8CD =
      some ⟨{ tfine := 128422, tF32 := 0x41C8A8CD, pStatus := 3, hStatus := 5, rawP := 415148,
              rawT := 519888, rawH := 24000 }, []⟩ := by decide

/-! ### Bus commands (95_test_vectors.md section 2.5) -/

theorem test_readAll : answer (st cal true [.ok burst] []) 0x30 0 0 0xBFC00000 =
    some ⟨reference, [.read 0x76 0xF7 8 (.ok burst)]⟩ := by decide
theorem test_readAll_uncalibrated_first : answer (st cal false [.fail] []) 0x30 0 0 0 =
    some ⟨{ status := 2 }, []⟩ := by decide
theorem test_readBusy : answer (st cal false [.ok [0x08]] []) 0x31 0 0 0 =
    some ⟨{ byte := 0x08, flag := 1 }, [.read 0x76 0xF3 1 (.ok [0x08])]⟩ := by decide
theorem test_readBusy_fail : answer (st cal false [.fail] []) 0x31 0 0 0 =
    some ⟨{ status := 1 }, [.read 0x76 0xF3 1 .fail]⟩ := by decide
theorem test_readMode : answer (st cal false [.ok [0x27]] []) 0x32 0 0 0 =
    some ⟨{ byte := 0x27, code := 3, mode := 2 }, [.read 0x76 0xF4 1 (.ok [0x27])]⟩ := by decide
theorem test_readMode_reserved : answer (st cal false [.ok [0x26]] []) 0x32 0 0 0 =
    some ⟨{ byte := 0x26, code := 2, mode := 1 }, [.read 0x76 0xF4 1 (.ok [0x26])]⟩ := by decide
theorem test_readChipId : answer (st cal false [.ok [0x58]] []) 0x33 0 0 0 =
    some ⟨{ byte := 0x58 }, [.read 0x76 0xD0 1 (.ok [0x58])]⟩ := by decide
theorem test_readChipId_long : answer (st cal false [.ok [0x60, 0x60]] []) 0x33 0 0 0 =
    some ⟨{ status := 1 }, [.read 0x76 0xD0 1 (.ok [0x60, 0x60])]⟩ := by decide
theorem test_writeCtrlHum : answer (st cal false [] [.ok]) 0x38 9 0 0 =
    some ⟨{ byte := 0x05 }, [.write 0x76 0xF2 0x05 .ok]⟩ := by decide
theorem test_writeCtrlMeas : answer (st cal false [] [.ok]) 0x39 1 1 2 =
    some ⟨{ byte := 0x27 }, [.write 0x76 0xF4 0x27 .ok]⟩ := by decide
theorem test_writeCtrlMeas_fail : answer (st cal false [] [.fail]) 0x39 2 5 1 =
    some ⟨{ status := 1 }, [.write 0x76 0xF4 0x55 .fail]⟩ := by decide
theorem test_writeConfig : answer (st cal false [] [.ok]) 0x3A 5 2 0 =
    some ⟨{ byte := 0xA8 }, [.write 0x76 0xF5 0xA8 .ok]⟩ := by decide
theorem test_softReset : answer (st cal true [] [.ok]) 0x3B 0 0 0 =
    some ⟨{ byte := 0xB6 }, [.write 0x76 0xE0 0xB6 .ok]⟩ := by decide
theorem test_softReset_keeps_store : storeAfter (st cal true [] [.ok]) 0x3B 0 0 0 =
    some (cal, true) := by decide
theorem test_illegal : answer ready 0xFF 0xFFFFFFFF 0xFFFFFFFF 0xFFFFFFFF =
    some ⟨{ status := 4 }, []⟩ := by decide

/-! ### Codec (95_test_vectors.md section 2.2) -/

theorem test_encOs : answer State.reset 0x40 0x106 0 0 = some ⟨{ code := 5 }, []⟩ := by decide
theorem test_encOsCount : [0, 1, 2, 3, 4, 6, 7, 12, 13, 0xFFFFFFFF].map osCountCode =
    [0, 1, 2, 2, 3, 3, 4, 4, 5, 5] := by decide
theorem test_encMode : answer State.reset 0x42 2 0 0 = some ⟨{ code := 3 }, []⟩ := by decide
theorem test_encFilter : answer State.reset 0x43 5 0 0 = some ⟨{ code := 4 }, []⟩ := by decide
theorem test_encStandby : answer State.reset 0x44 8 0 0 = some ⟨{ code := 7 }, []⟩ := by decide
theorem test_encCtrlMeas : answer State.reset 0x45 0xFFFFFFFF 0 0xFFFFFFFF =
    some ⟨{ byte := 0xA3 }, []⟩ := by decide
theorem test_encConfig : answer State.reset 0x46 6 2 0 = some ⟨{ byte := 0xC8 }, []⟩ := by decide
theorem test_encCtrlHum : answer State.reset 0x47 6 0 0 = some ⟨{ byte := 0x05 }, []⟩ := by decide
theorem test_decMode : answer State.reset 0x48 0x27 0 0 = some ⟨{ code := 3, mode := 2 }, []⟩ := by decide
theorem test_decMode_reserved : answer State.reset 0x48 0x102 0 0 =
    some ⟨{ code := 2, mode := 1 }, []⟩ := by decide
theorem test_decBusy : answer State.reset 0x49 0xF7 0 0 = some ⟨{ flag := 0 }, []⟩ := by decide
theorem test_decBusy_set : answer State.reset 0x49 0x08 0 0 = some ⟨{ flag := 1 }, []⟩ := by decide
theorem test_parseBurst : answer State.reset 0x4A 0x655ACF7E 0xED0F5DC0 0 =
    some ⟨{ rawP := 415148, rawT := 519888, rawH := 24000 }, []⟩ := by decide

/-! ### Coefficients (40_calibration.md R128; 95_test_vectors.md C-9, C-10) -/

theorem test_nibbles : (h4Bits 0xFF 0xAB).toNat = 4091 ∧ (h5Bits 0xCD 0xAB).toNat = 3290 ∧
    coef12 true (h4Bits 0xFF 0xAB) = -5 ∧ coef12 true (h5Bits 0xCD 0xAB) = -806 := by decide
theorem test_all_ones : coefList (assemble false (List.replicate 24 0xFF) [0xFF] (List.replicate 7 0xFF)) =
    [65535, -1, -1, 65535, -1, -1, -1, -1, -1, -1, -1, -1, 255, -1, 255, 4095, 4095, -1] := by decide

/-! ### Arithmetic (42_compensation.md R181, R183) -/

theorem test_divisions : divTrunc 7 2 = 3 ∧ divTrunc (-7) 2 = -3 ∧ divTrunc 7 (-2) = -3 ∧
    divTrunc (-7) (-2) = 3 ∧ asr (-7) 1 = -4 ∧ shl (-3) 17 = -393216 := by decide

/-! ### The host's assembler (30_encoding.md R87, R88; 95_test_vectors.md P1, P2) -/

theorem test_asm_compP : assembleLine "COMP_P 415148, 128422" =
    .ok [⟨0x21, 0x000655AC, 0x0001F5A6, 0⟩] := by decide
theorem test_asm_compAll : assembleLine "COMP_ALL 0x655AC07E, 0xED005DC0, -1.5 ; offset" =
    .ok [⟨0x23, 0x655AC07E, 0xED005DC0, 0xBFC00000⟩] := by decide
theorem test_asm_negative : assembleLine "COMP_H 24000, -721301" =
    .ok [⟨0x22, 0x5DC0, 0xFFF4FE6B, 0⟩] := by decide
theorem test_asm_configure : assembleLine "CONFIGURE 1, 1, 1, 2, 0, 4" =
    .ok [⟨0x39, 0, 0, 0⟩, ⟨0x3A, 0, 4, 0⟩, ⟨0x38, 1, 0, 0⟩, ⟨0x39, 1, 1, 2⟩] := by decide

/-! ### Witnesses: a state and operands that meet the hypotheses of each obligation -/

theorem witness_DecodeEncodeRoundTrip :
    (Instr.compP 0xFFFFF (-0x80000000)).wf = true ∧ (Instr.compH 0xFFFF 0x7FFFFFFF).wf = true ∧
    (Instr.encOsCount 0xFFFFFFFF).wf = true := by decide
theorem witness_EncodeDecodedIsMasked :
    decode ⟨0x20, 0xFFF7EED0, 0, 0⟩ = .ok (.compT 519888) := rfl
theorem witness_UnusedOperandBitsIgnored :
    maskCommand ⟨0x20, 0xFFF7EED0, 5, 6⟩ = maskCommand ⟨0x20, 0x0007EED0, 0, 0⟩ := by decide
theorem witness_DecodingIsTotal : (0x4A : Byte) ∈ opcodes ∧ (0x4B : Byte) ∉ opcodes := by decide
theorem witness_StepRunsDecodedCommand :
    (present ready ⟨0x20, 519888, 0, 0⟩).inputs = [.command ⟨0x20, 519888, 0, 0⟩] ∧
    decode ⟨0x20, 519888, 0, 0⟩ = .ok (.compT 519888) ∧ ready.inputs = [] := ⟨rfl, rfl, rfl⟩
theorem witness_IllegalOpcodeReported :
    (present ready ⟨0x4B, 0, 0, 0⟩).inputs = [.command ⟨0x4B, 0, 0, 0⟩] ∧
    ∀ op ∈ ([0x00, 0x0F, 0x11, 0x1F, 0x24, 0x2F, 0x34, 0x37, 0x3C, 0x3F, 0x4B, 0xFF] : List Byte),
      op ∉ opcodes := ⟨rfl, by decide⟩
/-- A state with a block reset on the port. -/
def resetting : State := { ready with inputs := [.blockReset] }
theorem witness_BlockResetFrame : resetting.inputs = [.blockReset] := rfl
theorem witness_ResetClearsStore : resetting.inputs = [.blockReset] ∧
    (st cal false [.ok [0x08]] []).calibValid = false ∧
    ∃ t, exec .readBusy (st cal false [.ok [0x08]] []) = .next t := ⟨rfl, rfl, _, rfl⟩
theorem witness_IntegerOperators : (-7 : Int) ≠ 0 := by decide
theorem witness_RoundsToNearestEven :
    0 < 5120 ∧ (128422 : Int).natAbs < 2 ^ 127 * 5120 ∧ f32Exp (rne32 128422 5120) ≠ 255 ∧
    f32Exp 0x41C8A8CE#32 ≠ 255 := by decide
/-- A tie: 2^24 + 1 lies halfway between two patterns. -/
theorem witness_RoundsToNearestEven_tie : f32Exp (rne32 16777217 1) ≠ 255 ∧
    |f32Units (rne32 16777217 1) * 1 - 16777217 * 2 ^ 149| =
      |f32Units 0x4B800001#32 * 1 - 16777217 * 2 ^ 149| ∧
    f32Units 0x4B800001#32 ≠ f32Units (rne32 16777217 1) := by decide
theorem witness_OffsetAddition : f32Exp 0x41C8A8CD#32 ≠ 255 ∧ f32IsNaN 0x7FC00000#32 = true ∧
    f32IsNaN 0x7F800001#32 = true ∧ f32IsInf 0xFF800000#32 = true ∧ f32Exp 0xBFC00000#32 ≠ 255 ∧
    f32Exp (addOffset ready 0x41C8A8CD#32 0xBFC00000#32).1 ≠ 255 ∧
    (0x41C8A8CD#32 : Word) ≠ 0x80000000#32 := by decide
/-- The largest pattern below 2^127 and the smallest offset: the sum is still below 2^127. -/
theorem witness_OffsetAddition_bound : f32Exp 0x7EFFFFFF#32 ≠ 255 ∧ f32Exp 0x00000001#32 ≠ 255 ∧
    |f32Units 0x7EFFFFFF#32 + f32Units 0x00000001#32| < 2 ^ 127 * 2 ^ 149 := by decide
/-- A tie: 2^24 plus 1.0 lies halfway between two patterns. -/
theorem witness_OffsetAddition_tie : f32Exp 0x4B800000#32 ≠ 255 ∧ f32Exp 0x3F800000#32 ≠ 255 ∧
    f32Exp (addOffset ready 0x4B800000#32 0x3F800000#32).1 ≠ 255 ∧ f32Exp 0x4B800001#32 ≠ 255 ∧
    |f32Units (addOffset ready 0x4B800000#32 0x3F800000#32).1 -
        (f32Units 0x4B800000#32 + f32Units 0x3F800000#32)| =
      |f32Units 0x4B800001#32 - (f32Units 0x4B800000#32 + f32Units 0x3F800000#32)| ∧
    f32Units 0x4B800001#32 ≠ f32Units (addOffset ready 0x4B800000#32 0x3F800000#32).1 := by decide
theorem witness_ModeRoundTrip : 0 ≤ 2 ∧ 2 ≤ 2 := by decide
/-- The state under another reading of mode bits 0b10. -/
def mode10 (d : Mode10Decode) : State := { ready with params := { par with mode10Decode := d } }
theorem witness_ModeDecoder : (0xFC#8).toNat % 4 = 0 ∧ (0xFD#8).toNat % 4 = 1 ∧ (0xFF#8).toNat % 4 = 3 ∧
    (0xFE#8).toNat % 4 = 2 ∧ (mode10 .sleep).params.mode10Decode = .sleep ∧
    (mode10 .forced).params.mode10Decode = .forced ∧ (mode10 .normal).params.mode10Decode = .normal ∧
    (mode10 .leftOpen).params.mode10Decode = .leftOpen := by decide
theorem witness_CodecCommandsTotal : isCodec (.encOs 9) = true ∧ isCodec (.decMode 0x26) = true := by decide
theorem witness_TemperatureStage : StoreInRange false cal ∧ (0 : Int) ≤ 1048575 ∧
    (1048575 : Int) < 2 ^ 20 := by decide
theorem witness_TemperatureNearSourceFormula : StoreInRange false cal ∧ (0 : Int) ≤ 519888 ∧
    (519888 : Int) < 2 ^ 20 ∧ temperature .fault cal 519888 = .ok 128422 := ⟨by decide, by decide, by decide, rfl⟩
theorem witness_OverflowPolicyOnlyRemoves :
    temperature .fault cal 519888 = .ok 128422 ∧ pressure .fault cal 415148 128422 = .ok 25767233 ∧
    pressure .fault { cal with p1 := 0 } 415148 128422 = .error .invalidPressureReading ∧
    humidity .fault cal 24000 128422 = .ok 18838 := ⟨rfl, rfl, rfl, rfl⟩
theorem witness_CompTResult : (st cal false [] []).calibValid = false ∧ ready.calibValid = true ∧
    temperature ready.params.overflowPolicy ready.calib (519888 : Nat) = .ok 128422 ∧
    temperature .fault { cal with t1 := 0 } 0xFFFFF = .error .arithmeticOverflow := ⟨rfl, rfl, rfl, rfl⟩
theorem witness_CompPResult : (st cal false [] []).calibValid = false ∧ ready.calibValid = true ∧
    pressure ready.params.overflowPolicy ready.calib (415148 : Nat) 128422 = .ok 25767233 ∧
    pressure .fault { cal with p1 := 0 } 415148 128422 = .error .invalidPressureReading ∧
    pressure .fault cal 415148 (-2147483648) = .error .arithmeticOverflow := ⟨rfl, rfl, rfl, rfl, rfl⟩
theorem witness_CompHResult : (st cal false [] []).calibValid = false ∧ ready.calibValid = true ∧
    humidity ready.params.overflowPolicy ready.calib (24000 : Nat) 128422 = .ok 18838 ∧
    humidity .fault { cal with h4 := 2048 } 24000 128422 = .error .arithmeticOverflow := ⟨rfl, rfl, rfl, rfl⟩
/-- The reference burst (95_test_vectors.md section 0). -/
def refBurst : Burst := burstOfBytes burst
theorem witness_CompAllResult : (st cal false [] []).calibValid = false ∧ ready.calibValid = true ∧
    temperature ready.params.overflowPolicy ready.calib (burstRawT refBurst).toNat = .ok 128422 ∧
    pressure ready.params.overflowPolicy ready.calib (burstRawP refBurst).toNat 128422 = .ok 25767233 ∧
    humidity ready.params.overflowPolicy ready.calib (burstRawH refBurst).toNat 128422 = .ok 18838 :=
  ⟨rfl, rfl, rfl, rfl, rfl⟩
theorem witness_CompAllResult_temperature :
    temperature .fault { cal with t1 := 0 } (burstRawT ⟨0, 0, 0, 0xFF, 0xFF, 0xF0, 0, 0⟩).toNat =
      .error .arithmeticOverflow := rfl
theorem witness_CompAllResult_zero :
    pressure .fault { cal with p1 := 0 } (burstRawP refBurst).toNat 128422 =
      .error .invalidPressureReading := rfl
theorem witness_CompAllResult_overflow :
    pressure .fault { cal with p1 := 1 } (burstRawP refBurst).toNat 128422 =
      .error .arithmeticOverflow := rfl
theorem witness_CompAllResult_humidity :
    (burstRawH refBurst).toNat = 24000 ∧
    humidity .fault { cal with h4 := 2048 } 24000 128422 = .error .arithmeticOverflow :=
  ⟨by decide, rfl⟩
theorem witness_CompAllMatchesSingleStages : ∃ r, r.status = 0 ∧
    resultOf (.compT (burstRawT refBurst).toNat) ready = some r := ⟨_, by decide, rfl⟩
theorem witness_OffsetOnlyInCorrectedField :
    (∃ r, resultOf (.compAll refBurst 0#32) ready = some r) ∧
    (∃ r, resultOf (.compAll refBurst 0xBFC00000#32) ready = some r) ∧
    (∃ r, resultOf (.readAll 0#32) (st cal true [.ok burst] []) = some r) ∧
    (∃ r, resultOf (.readAll 0xBFC00000#32) (st cal true [.ok burst] []) = some r) :=
  ⟨⟨_, rfl⟩, ⟨_, rfl⟩, ⟨_, rfl⟩, ⟨_, rfl⟩⟩
theorem witness_HumidityRangeLaw : ready.calibValid = true := rfl
theorem witness_HumidityFloatExact : (0 : Int) ≤ 102400 ∧ (102400 : Int) ≤ 102400 := by decide
theorem witness_UncalibratedTestedFirst :
    needsCalib (.compT 0) = true ∧ needsCalib (.readAll 0#32) = true ∧
    (st cal false [] []).calibValid = false := by decide
/-- A state whose bus is answered by a small register image. -/
def imaged : State := { ready with oracle := .image, regs := [(0xD0, 0x60#8), (0xF4, 0x27#8)] }
theorem witness_OracleAnswers : imaged.oracle = .image ∧ memRead imaged.regs 0xD0 = 0x60#8 ∧
    (st cal true [.fail] [.ok]).oracle = .draws [.fail] [.ok] ∧
    (st cal true [] [.ok]).oracle = .draws [] [.ok] ∧
    (st cal true [.fail] []).oracle = .draws [.fail] [] ∧ State.reset.oracle = .draws [] [] := by decide
theorem witness_LoadCalibRule : (st cal true [] []).calibValid = true ∧
    (st cal false [.ok spanA, .ok [0x4B], .ok spanB] []).calibValid = false ∧
    (st cal false [.ok spanA, .ok [0x4B], .ok spanB] []).hung = false ∧
    acceptBytes 24 (.ok spanA) = some spanA ∧ acceptBytes 1 (.ok [0x4B#8]) = some [0x4B] ∧
    acceptBytes 7 (.ok spanB) = some spanB ∧ acceptBytes 24 .fail = none ∧ acceptBytes 1 (.ok []) = none ∧
    acceptBytes 7 (.ok (spanB.take 6)) = none := by decide
theorem witness_LoadCalibRule_draws :
    drawRead (st cal false [.ok spanA, .ok [0x4B], .ok spanB] []) 0x88#8 24 =
      (.ok spanA, st cal false [.ok [0x4B], .ok spanB] []) ∧
    drawRead (st cal false [.ok [0x4B], .ok spanB] []) 0xA1#8 1 =
      (.ok [0x4B], st cal false [.ok spanB] []) ∧
    drawRead (st cal false [.ok spanB] []) 0xE1#8 7 = (.ok spanB, st cal false [] []) := ⟨rfl, rfl, rfl⟩
theorem witness_RegisterReads : (st cal false [.ok [0x08]] []).hung = false ∧
    (∀ addr : RegAddr, drawRead (st cal false [.ok [0x08]] []) addr 1 =
      (.ok [0x08], st cal false [] [])) ∧
    (∀ addr : RegAddr, drawRead (st cal false [.ok []] []) addr 1 = (.ok [], st cal false [] [])) ∧
    acceptBytes 1 (.ok []) = none := ⟨rfl, fun _ => rfl, fun _ => rfl, rfl⟩
theorem witness_RegisterWrites : registerWritten (.writeCtrlMeas 1 1 2) = some (0xF4#8, 0x27#8) ∧
    (st cal false [] [.ok]).hung = false ∧
    drawWrite (st cal false [] [.ok]) 0xF4#8 0x27#8 = (.ok, st cal false [] []) ∧
    drawWrite (st cal false [] [.fail]) 0xF4#8 0x27#8 = (.fail, st cal false [] []) :=
  ⟨rfl, rfl, rfl, rfl⟩
theorem witness_ReadAllMatchesCompAll : (st cal false [] []).calibValid = false ∧
    (st cal true [.ok burst] []).calibValid = true ∧ (st cal true [.ok burst] []).hung = false ∧
    drawRead (st cal true [.ok burst] []) 0xF7#8 8 = (.ok burst, ready) ∧ burst.length = 8 ∧
    drawRead (st cal true [.fail] []) 0xF7#8 8 = (.fail, ready) ∧ acceptBytes 8 .fail = none :=
  ⟨rfl, rfl, rfl, rfl, rfl, rfl, rfl⟩
theorem witness_RegisterImageFrame : Memory.wf imaged.regs = true ∧ imaged.oracle = .image ∧
    (∃ t, exec (.writeCtrlHum 3) imaged = .next t) ∧
    registerWritten (.writeCtrlHum 3) = some (0xF2#8, 0x03#8) ∧
    (∃ t, exec .softReset imaged = .next t) ∧ (∃ t, exec .readChipId imaged = .next t) ∧
    registerWritten .readChipId = none := ⟨rfl, rfl, ⟨_, rfl⟩, rfl, ⟨_, rfl⟩, ⟨_, rfl⟩, rfl⟩
theorem witness_WrittenModeReadsBack : Memory.wf imaged.regs = true ∧ imaged.oracle = .image ∧
    imaged.hung = false ∧ ∃ t, exec (.writeCtrlMeas 1 1 9) imaged = .next t := ⟨rfl, rfl, rfl, _, rfl⟩
/-- A state whose transport never answers. -/
def silent : State := { ready with hung := true }
theorem witness_OnlyTheTransportStops : exec .softReset silent = .fault .transportHung ∧
    silent.hung = true ∧ isBus .softReset = true ∧ exec (.encOs 1) silent ≠ .fault .transportHung :=
  ⟨rfl, rfl, rfl, fun h => by cases h⟩
theorem witness_OneObservationPerCommand : ∃ t, exec (.compT 519888) ready = .next t := ⟨_, rfl⟩
/-- A load that commits, and one whose first read fails. -/
def loading : State := st Calib.zero false [.ok spanA, .ok [0x4B], .ok spanB] []
def failing : State := st Calib.zero false [.fail] []
theorem witness_StoreWrittenOnlyByLoad : ready.calibValid = true ∧
    ∃ t, exec .loadCalib loading = .next t ∧ t.calibValid ≠ loading.calibValid :=
  ⟨rfl, _, rfl, by decide⟩
theorem witness_LoadIsAtomic : (∃ t, exec .loadCalib loading = .next t) ∧
    ∃ t, exec .loadCalib failing = .next t := ⟨⟨_, rfl⟩, _, rfl⟩
theorem witness_ErrorsArePrecise : ∃ t o, exec .loadCalib failing = .next t ∧
    t.observed = failing.observed ++ [o] ∧ o.result.status ≠ 0 := ⟨_, _, rfl, rfl, by decide⟩
theorem witness_BusFailureEndsCommand : ∃ t o, exec .loadCalib failing = .next t ∧
    t.observed = failing.observed ++ [o] ∧ ∃ e ∈ o.trace, eventFailed e = true :=
  ⟨_, _, rfl, rfl, _, List.mem_singleton.mpr rfl, rfl⟩
theorem witness_HistoryNeverRead : ∃ t, exec (.compT 519888) ready = .next t := ⟨_, rfl⟩
theorem witness_StoreInRangeInvariant :
    StoreInRange (present loading ⟨0x10, 0, 0, 0⟩).params.h45SignExtend
      (present loading ⟨0x10, 0, 0, 0⟩).calib ∧
    ∃ t, step (present loading ⟨0x10, 0, 0, 0⟩) = .next t := ⟨by decide, _, rfl⟩
theorem witness_StoreProvenanceInvariant : StoreProvenance (present loading ⟨0x10, 0, 0, 0⟩) ∧
    ∃ t, step (present loading ⟨0x10, 0, 0, 0⟩) = .next t :=
  ⟨⟨fun _ => ⟨rfl, rfl⟩, fun h => by cases h⟩, _, rfl⟩
theorem witness_ObservationsLegalInvariant :
    ObservationsLegal (present loading ⟨0x10, 0, 0, 0⟩) ∧
    ∃ t, step (present loading ⟨0x10, 0, 0, 0⟩) = .next t :=
  ⟨fun _ h => by simp [loading, st, State.reset] at h, _, rfl⟩
theorem witness_RegisterImageInvariant :
    Memory.wf (present imaged ⟨0x38, 3, 0, 0⟩).regs = true ∧
    ∃ t, step (present imaged ⟨0x38, 3, 0, 0⟩) = .next t := ⟨rfl, _, rfl⟩
theorem witness_EveryCommandAnswered : (present ready ⟨0x20, 519888, 0, 0⟩).hung = false ∧
    (∀ x ∈ (present ready ⟨0x20, 519888, 0, 0⟩).inputs, x ≠ .blockReset) ∧
    (present ready ⟨0x20, 519888, 0, 0⟩).inputs[0]? = some (.command ⟨0x20, 519888, 0, 0⟩) := by decide
theorem witness_ConfigureSequence : (∀ v ∈ [1, 1, 1, 2, 0, 4294967295], v < 2 ^ 32) ∧
    (st cal false [] [.ok, .ok, .ok, .ok]).hung = false ∧
    (st cal false [] [.ok, .ok, .ok, .ok]).oracle = .draws [] (.ok :: .ok :: .ok :: .ok :: []) :=
  ⟨by decide, rfl, rfl⟩

end Sys2Proof.Machine.Tests
end

/-! PROOFS. The statements of 00_scope.md: the integer operators (R8), the overflow policies (R9),
errors (R12) and the rounding to binary32 (R13). -/

namespace Sys2Proof.Machine

/-! ### The integer operators -/

/-- The truncated quotient by its sign and its magnitude; where the magnitude is 0 the sign does not
count. -/
theorem divTrunc_eq_sign_mul_natAbs (a b : Int) :
    divTrunc a b = a.sign * b.sign * ((a.natAbs / b.natAbs : Nat) : Int) := by
  calc divTrunc a b = (a.tdiv b).sign * ((a.tdiv b).natAbs : Int) := (Int.sign_mul_natAbs _).symm
    _ = (if a.natAbs < b.natAbs then 0 else a.sign * b.sign) *
          ((a.natAbs / b.natAbs : Nat) : Int) := by rw [Int.sign_tdiv, Int.natAbs_tdiv]; rfl
    _ = a.sign * b.sign * ((a.natAbs / b.natAbs : Nat) : Int) := by
      split
      · rename_i hlt
        simp [Nat.div_eq_of_lt hlt]
      · rfl

/-- Settles O11: a shift right is the integer floor division, a shift left is the product by
definition, and a division is taken apart into sign and magnitude. -/
theorem integerOperators : Obligations.IntegerOperators := by
  refine ⟨fun a k => ?_, fun _ _ => rfl, fun a b _ => divTrunc_eq_sign_mul_natAbs a b⟩
  have hpos : (0 : Int) < 2 ^ k := by positivity
  rw [asr_eq_div]
  exact ⟨Int.ediv_mul_le a hpos.ne', Int.lt_ediv_add_one_mul_self a hpos⟩

/-! ### The overflow policies -/

/-- The computation `u` does what `f` does, unless `f` ends with an overflow. -/
def OnlyOverflowLost {α : Type} (f u : Except StageError α) : Prop :=
  f = .error .arithmeticOverflow ∨ u = f

namespace OnlyOverflowLost

variable {α β : Type} {f u : Except StageError α}

theorem refl (f : Except StageError α) : OnlyOverflowLost f f := .inr rfl

theorem eq_ok (h : OnlyOverflowLost f u) {v : α} (hf : f = .ok v) : u = .ok v := by
  subst hf
  exact h.resolve_left nofun

theorem eq_invalidReading (h : OnlyOverflowLost f u)
    (hf : f = .error .invalidPressureReading) : u = .error .invalidPressureReading := by
  subst hf
  exact h.resolve_left nofun

theorem bind {k k' : α → Except StageError β} (h : OnlyOverflowLost f u)
    (hk : ∀ v, OnlyOverflowLost (k v) (k' v)) : OnlyOverflowLost (f >>= k) (u >>= k') := by
  obtain rfl | rfl := h
  · exact .inl rfl
  · cases u with
    | error e => exact .inr rfl
    | ok v => exact hk v

/-- The one place where the policies differ (00_scope.md R9). -/
theorem chk (w : Nat) (v : Int) : OnlyOverflowLost (chk .fault w v) (chk .unbounded w v) := by
  cases hf : fitsS w v with
  | true => exact .inr (chkField_of_fits hf).symm
  | false => exact .inl (chkField_of_not_fits hf)

/-- A check, then the rest of a stage. -/
theorem chk_bind {w : Nat} {v : Int} {k k' : Int → Except StageError β}
    (hk : ∀ v, OnlyOverflowLost (k v) (k' v)) :
    OnlyOverflowLost (Machine.chk .fault w v >>= k) (Machine.chk .unbounded w v >>= k') :=
  (chk w v).bind hk

theorem temperature (c : Calib) (r : Int) :
    OnlyOverflowLost (temperature .fault c r) (temperature .unbounded c r) := by
  unfold Machine.temperature
  repeat refine chk_bind fun _ => ?_
  exact refl _

theorem pressureTerms (c : Calib) (t : Int) :
    OnlyOverflowLost (pressureTerms .fault c t) (pressureTerms .unbounded c t) := by
  unfold Machine.pressureTerms
  repeat refine chk_bind fun _ => ?_
  exact refl _

theorem pressureDivisor (c : Calib) (v : Int) :
    OnlyOverflowLost (pressureDivisor .fault c v) (pressureDivisor .unbounded c v) := by
  unfold Machine.pressureDivisor
  repeat refine chk_bind fun _ => ?_
  exact refl _

theorem pressureTail (c : Calib) (r v d : Int) :
    OnlyOverflowLost (pressureTail .fault c r v d) (pressureTail .unbounded c r v d) := by
  unfold Machine.pressureTail
  repeat refine chk_bind fun _ => ?_
  exact refl _

/-- The zero test between divisor and tail is made alike under both policies. -/
theorem pressure (c : Calib) (r t : Int) :
    OnlyOverflowLost (pressure .fault c r t) (pressure .unbounded c r t) := by
  unfold Machine.pressure
  refine (pressureTerms c t).bind fun (v1, v2) => (pressureDivisor c v1).bind fun d => ?_
  split
  · exact refl _
  · exact pressureTail c r v2 d

theorem humidity (c : Calib) (r t : Int) :
    OnlyOverflowLost (humidity .fault c r t) (humidity .unbounded c r t) := by
  unfold Machine.humidity
  repeat refine chk_bind fun _ => ?_
  exact refl _

end OnlyOverflowLost

/-- Settles O27: check by check, the policies differ only where FAULT ends with an overflow. -/
theorem overflowPolicyOnlyRemoves : Obligations.OverflowPolicyOnlyRemoves :=
  ⟨fun c r _ => (OnlyOverflowLost.temperature c r).eq_ok,
    fun c r t _ => (OnlyOverflowLost.pressure c r t).eq_ok,
    fun c r t => (OnlyOverflowLost.pressure c r t).eq_invalidReading,
    fun c r t _ => (OnlyOverflowLost.humidity c r t).eq_ok⟩

/-! ### Errors -/

/-- A reply with an error has every other result field 0. -/
structure ErrorAlone (r : Reply) : Prop where
  result_eq : r.result.status ≠ 0 → r.result = { status := r.result.status }

namespace ErrorAlone

variable {s : State} {r : Reply}

theorem done (s : State) (res : Result) : ErrorAlone (done s res) := ⟨fun h => absurd rfl h⟩

theorem raise (s : State) (e : Status) : ErrorAlone (raise s e) := ⟨fun _ => rfl⟩

theorem traced (ev : BusEvent) (h : ErrorAlone r) : ErrorAlone (traced ev r) := ⟨h.result_eq⟩

theorem stageReply (s : State) (stage : Stage) (f : Int → Result → Result) :
    ErrorAlone (stageReply s stage f) := by
  cases stage with
  | error e => exact raise _ _
  | ok v => exact done _ _

theorem decodeModeInto (s : State) (image : Byte) (res : Result) :
    ErrorAlone (decodeModeInto s image res) := by
  obtain ⟨_, _, -, -, h⟩ := decodeModeInto_spec s image res
  rw [h]
  exact done _ _

theorem pipeline (s : State) (x : Burst) (offset : Word) : ErrorAlone (pipeline s x offset) := by
  obtain ⟨_, -, h⟩ | ⟨_, -, h⟩ := pipeline_cases s x offset <;> rw [h]
  · exact raise _ _
  · exact done _ _

theorem busRead {addr : RegAddr} {n : Nat} {k : State → List Byte → Reply}
    (hk : ∀ s' bs, ErrorAlone (k s' bs)) : ErrorAlone (busRead s addr n k) := by
  obtain ⟨_, _, -, ⟨-, h⟩ | ⟨_, -, -, h⟩⟩ := busRead_cases s addr n k <;> rw [h]
  · exact .traced _ (raise _ _)
  · exact .traced _ (hk _ _)

theorem busWrite {addr : RegAddr} {v : Byte} {k : State → Reply}
    (hk : ∀ s', ErrorAlone (k s')) : ErrorAlone (busWrite s addr v k) := by
  obtain ⟨answer, _, -, h⟩ := busWrite_cases s addr v k
  rw [h]
  cases answer with
  | ok => exact .traced _ (hk _)
  | fail => exact .traced _ (raise _ _)

theorem writeImage (s : State) (addr : RegAddr) (v : Byte) : ErrorAlone (writeImage s addr v) :=
  .busWrite fun _ => done _ _

theorem loadSpans (s : State) : ErrorAlone (loadSpans s) :=
  .busRead fun _ _ => .busRead fun _ _ => .busRead fun _ _ => done _ _

/-- The calibration test before a body. -/
theorem ite {c : Bool} {r' : Reply} (h : ErrorAlone r) (h' : ErrorAlone r') :
    ErrorAlone (if c then r else r') := by
  cases c <;> assumption

end ErrorAlone

theorem replyOf_errorAlone (i : Instr) (s : State) : ErrorAlone (replyOf i s) := by
  cases i
  case loadCalib => exact .ite (.raise ..) (.loadSpans s)
  case compT | compP | compH => exact .ite (.stageReply ..) (.raise ..)
  case compAll => exact .ite (.pipeline ..) (.raise ..)
  case readAll => exact .ite (.busRead fun _ _ => .pipeline ..) (.raise ..)
  case readBusy | readChipId => exact .busRead fun _ _ => .done ..
  case readMode => exact .busRead fun _ _ => .decodeModeInto ..
  case writeCtrlHum | writeCtrlMeas | writeConfig | softReset => exact .writeImage ..
  case decMode => exact .decodeModeInto ..
  all_goals exact .done ..

/-- A load that reports an error has not committed. -/
theorem loadCalib_error_storeKept (s : State) (h : (replyOf .loadCalib s).result.status ≠ 0) :
    StoreKept s (replyOf .loadCalib s) := by
  simp only [replyOf] at h ⊢
  split_ifs at h ⊢
  · exact ⟨rfl, rfl⟩
  · obtain ⟨hkept, -⟩ | ⟨_, _, _, -, -, -, hok, -⟩ := loadSpans_cases s
    · exact hkept
    · exact absurd (by rw [hok]) h

theorem replyOf_error_storeKept {i : Instr} {s : State} (h : (replyOf i s).result.status ≠ 0) :
    StoreKept s (replyOf i s) := by
  by_cases hi : i = .loadCalib
  · subst hi
    exact loadCalib_error_storeKept s h
  · exact replyOf_storeKept i s hi

/-- Settles O51: the pair a command adds is its reply's, whose error stands alone and keeps the
store. -/
theorem errorsArePrecise : Obligations.ErrorsArePrecise := by
  intro i s t o hexec hobs hstatus
  obtain ⟨-, rfl⟩ := exec_next hexec
  have ho : o = ⟨(replyOf i s).result, (replyOf i s).trace⟩ := by
    simpa [(replyOf_keeps i s).observed] using hobs.symm
  subst ho
  obtain ⟨hcalib, hvalid⟩ := replyOf_error_storeKept hstatus
  exact ⟨(replyOf_errorAlone i s).result_eq hstatus, hcalib, hvalid⟩

/-! ### Rounding to binary32

Values are counted in units of 2^-149. The exact value of `m / d` is `N / d` units for `N = 2^149 * m`;
the rounded one is `S * 2^f` units, where `f = f32Shift m d` and `S` is `N / (d * 2^f)` rounded to a
natural. -/

/-- Rounding down is by less than half a divisor, rounding up by the rest; a half goes to the even
quotient. -/
theorem roundHalfEven_cases (n g : Nat) :
    (roundHalfEven n g = n / g ∧
      (2 * (n % g) < g ∨ 2 * (n % g) = g ∧ roundHalfEven n g % 2 = 0)) ∨
    (roundHalfEven n g = n / g + 1 ∧
      (g < 2 * (n % g) ∨ 2 * (n % g) = g ∧ roundHalfEven n g % 2 = 0)) := by
  simp only [roundHalfEven]
  split_ifs <;> omega

theorem roundHalfEven_ge (n g : Nat) : n / g ≤ roundHalfEven n g := by
  obtain ⟨h, -⟩ | ⟨h, -⟩ := roundHalfEven_cases n g <;> omega

theorem roundHalfEven_le (n g : Nat) : roundHalfEven n g ≤ n / g + 1 := by
  obtain ⟨h, -⟩ | ⟨h, -⟩ := roundHalfEven_cases n g <;> omega

/-- The rounded quotient is at most half a divisor off, and even where it is exactly half a divisor
off. -/
theorem roundHalfEven_error (n : Nat) {g : Nat} (hg : 0 < g) :
    2 * |(roundHalfEven n g * g - n : Int)| ≤ g ∧
      (2 * |(roundHalfEven n g * g - n : Int)| = g → roundHalfEven n g % 2 = 0) := by
  have hdiv : (g * (n / g : Nat) + (n % g : Nat) : Int) = n := by exact_mod_cast Nat.div_add_mod n g
  have hmod := Nat.mod_lt n hg
  obtain ⟨hdown, hr⟩ | ⟨hup, hr⟩ := roundHalfEven_cases n g
  · have habs : |(roundHalfEven n g * g - n : Int)| = (n % g : Nat) := by
      rw [hdown, ← hdiv, mul_comm, sub_add_cancel_left, abs_neg, Nat.abs_cast]
    rw [habs]
    omega
  · have habs : |(roundHalfEven n g * g - n : Int)| = g - (n % g : Nat) := by
      rw [hup, ← abs_of_nonneg (a := (g - (n % g : Nat) : Int)) (by omega)]
      congr 1
      push_cast at hdiv ⊢
      linarith
    rw [habs]
    omega

/-- No multiple of the divisor is nearer than the rounded quotient; where another one is as near, the
rounded quotient is even. -/
theorem roundHalfEven_nearest (n : Nat) {g : Nat} (hg : 0 < g) (z : Int) :
    |(roundHalfEven n g * g - n : Int)| ≤ |z * g - n| ∧
      (|(roundHalfEven n g * g - n : Int)| = |z * g - n| → z ≠ roundHalfEven n g →
        roundHalfEven n g % 2 = 0) := by
  obtain ⟨herr, heven⟩ := roundHalfEven_error n hg
  by_cases hz : z = roundHalfEven n g
  · subst hz
    exact ⟨le_rfl, fun _ h => absurd rfl h⟩
  · have hapart : (g : Int) ≤ |z * g - n| + |(roundHalfEven n g * g - n : Int)| := by
      calc (g : Int) = 1 * g := (one_mul _).symm
        _ ≤ |z - roundHalfEven n g| * g :=
          mul_le_mul_of_nonneg_right (Int.one_le_abs (sub_ne_zero.mpr hz)) (by positivity)
        _ = |(z * g - n) - (roundHalfEven n g * g - n)| := by
          rw [sub_sub_sub_cancel_right, ← sub_mul, abs_mul, Nat.abs_cast]
        _ ≤ _ := abs_sub _ _
    exact ⟨by omega, fun heq _ => heven (by omega)⟩

/-- The significand of `m / d` rounded at its last place, the carry to 2^24 included. -/
def f32Significand (m d : Nat) : Nat := roundHalfEven (2 ^ 149 * m) (d * 2 ^ f32Shift m d)

theorem f32Magnitude_eq (m d : Nat) :
    f32Magnitude m d = min (2 ^ 23 * f32Shift m d + f32Significand m d) 0x7F800000 := rfl

/-- The exact value is below 2^24 last places. -/
theorem exact_div_lt (m d : Nat) : 2 ^ 149 * m / (d * 2 ^ f32Shift m d) < 2 ^ 24 := by
  rw [← Nat.div_div_eq_div_mul, Nat.div_lt_iff_lt_mul (by positivity), ← pow_add]
  exact Nat.lt_log2_self.trans_le (Nat.pow_le_pow_right (by decide) (by unfold f32Shift; omega))

/-- Above the subnormals and the first normal binade the exact value has 24 places. -/
theorem exact_div_ge {m d : Nat} (h : f32Shift m d ≠ 0) :
    2 ^ 23 ≤ 2 ^ 149 * m / (d * 2 ^ f32Shift m d) := by
  rw [← Nat.div_div_eq_div_mul, Nat.le_div_iff_mul_le (by positivity), ← pow_add]
  have hlog : 23 + f32Shift m d = Nat.log2 (2 ^ 149 * m / d) := by unfold f32Shift at h ⊢; omega
  rw [hlog]
  refine Nat.log2_self_le fun h0 => h ?_
  rw [f32Shift, h0]
  rfl

theorem f32Significand_le (m d : Nat) : f32Significand m d ≤ 2 ^ 24 :=
  (roundHalfEven_le _ _).trans (exact_div_lt m d)

theorem f32Significand_ge {m d : Nat} (h : f32Shift m d ≠ 0) : 2 ^ 23 ≤ f32Significand m d :=
  (exact_div_ge h).trans (roundHalfEven_ge _ _)

section Nearest

variable {m d s e : Nat} {z : Int}

/-- A value with smaller places than the rounded one lies below the binade of the exact value, so
2^23 last places are nearer, and the rounded value is no farther than they are. -/
theorem f32Significand_nearer_of_lt (hd : 0 < d) (hs : s < 2 ^ 24) (hz : z.natAbs = s * 2 ^ e)
    (he : e < f32Shift m d) :
    |(f32Significand m d * (d * 2 ^ f32Shift m d : Nat) - (2 ^ 149 * m : Nat) : Int)| <
      |z * d - (2 ^ 149 * m : Nat)| := by
  have hg : 0 < d * 2 ^ f32Shift m d := by positivity
  have hexact : (2 ^ 23 * (d * 2 ^ f32Shift m d : Nat) : Int) ≤ (2 ^ 149 * m : Nat) := by
    exact_mod_cast (Nat.le_div_iff_mul_le hg).mp (exact_div_ge (m := m) (d := d) (by omega))
  have hbelow : z.natAbs * d < 2 ^ 23 * (d * 2 ^ f32Shift m d) := by
    calc z.natAbs * d = s * (2 ^ e * d) := by rw [hz, mul_assoc]
      _ < 2 ^ 24 * (2 ^ e * d) := Nat.mul_lt_mul_of_pos_right hs (by positivity)
      _ = 2 ^ 23 * (d * 2 ^ (e + 1)) := by ring
      _ ≤ 2 ^ 23 * (d * 2 ^ f32Shift m d) := by gcongr <;> omega
  have hlt : z * d < 2 ^ 23 * (d * 2 ^ f32Shift m d : Nat) :=
    (mul_le_mul_of_nonneg_right Int.le_natAbs (Int.natCast_nonneg d)).trans_lt
      (by exact_mod_cast hbelow)
  refine (roundHalfEven_nearest (2 ^ 149 * m) hg (2 ^ 23)).1.trans_lt ?_
  rw [abs_of_nonpos (by linarith), abs_of_nonpos (by linarith)]
  linarith

/-- A value with a significand of 24 bits is no nearer than the rounded one: it is a whole number of
the rounded value's last places, or has smaller places. -/
theorem f32Significand_nearest (hd : 0 < d) (hs : s < 2 ^ 24) (hz : z.natAbs = s * 2 ^ e) :
    |((f32Significand m d * 2 ^ f32Shift m d : Nat) * d - m * 2 ^ 149 : Int)| ≤
        |z * d - m * 2 ^ 149| ∧
      (|((f32Significand m d * 2 ^ f32Shift m d : Nat) * d - m * 2 ^ 149 : Int)| =
          |z * d - m * 2 ^ 149| →
        z ≠ (f32Significand m d * 2 ^ f32Shift m d : Nat) → f32Significand m d % 2 = 0) := by
  have hunits : (m * 2 ^ 149 : Int) = (2 ^ 149 * m : Nat) := by push_cast; ring
  have hround : ((f32Significand m d * 2 ^ f32Shift m d : Nat) * d : Int) =
      f32Significand m d * (d * 2 ^ f32Shift m d : Nat) := by push_cast; ring
  rw [hunits, hround]
  rcases lt_or_ge e (f32Shift m d) with he | he
  · have hlt := f32Significand_nearer_of_lt hd hs hz he
    exact ⟨hlt.le, fun heq => absurd heq hlt.ne⟩
  · obtain ⟨q, rfl⟩ : (2 ^ f32Shift m d : Int) ∣ z := by
      rw [← Int.dvd_natAbs, hz]
      push_cast
      exact Dvd.dvd.mul_left (pow_dvd_pow 2 he) _
    have hplaces : (2 ^ f32Shift m d * q * d : Int) = q * (d * 2 ^ f32Shift m d : Nat) := by
      push_cast; ring
    rw [hplaces]
    obtain ⟨hle, heven⟩ := roundHalfEven_nearest (2 ^ 149 * m) (g := d * 2 ^ f32Shift m d)
      (by positivity) q
    refine ⟨hle, fun heq hne => heven heq fun hq => hne ?_⟩
    rw [hq, f32Significand]
    push_cast
    ring

end Nearest

/-! The fields of a packed pattern. -/

section Packed

variable {b : Bool} {k : Nat}

theorem f32Pack_toNat (h : k < 2 ^ 31) :
    (f32Pack b k).toNat = (if b then 2 ^ 31 else 0) + k := by
  rw [f32Pack, BitVec.toNat_ofNat, Nat.mod_eq_of_lt]
  split <;> omega

theorem f32Exp_eq (x : Word) : f32Exp x = x.toNat / 2 ^ 23 % 2 ^ 8 := by
  rw [f32Exp, BitVec.extractLsb'_toNat, Nat.shiftRight_eq_div_pow]

theorem f32Frac_eq (x : Word) : f32Frac x = x.toNat % 2 ^ 23 := by
  rw [f32Frac, BitVec.extractLsb'_toNat, Nat.shiftRight_zero]

theorem f32Sign_f32Pack (h : k < 2 ^ 31) : f32Sign (f32Pack b k) = b := by
  rw [f32Sign, BitVec.getLsbD_last, f32Pack_toNat h]
  cases b with
  | false => simpa using h
  | true => simp

theorem f32Exp_f32Pack (h : k < 2 ^ 31) : f32Exp (f32Pack b k) = k / 2 ^ 23 := by
  rw [f32Exp_eq, f32Pack_toNat h]
  split <;> omega

theorem f32Frac_f32Pack (h : k < 2 ^ 31) : f32Frac (f32Pack b k) = k % 2 ^ 23 := by
  rw [f32Frac_eq, f32Pack_toNat h]
  split <;> omega

end Packed

/-- A significand at its exponent, packed: the carry to 2^24 has run into the exponent. -/
theorem f32Abs_f32Pack {b : Bool} {f s : Nat} (hs : s ≤ 2 ^ 24) (hf : f ≠ 0 → 2 ^ 23 ≤ s)
    (h : 2 ^ 23 * f + s < 2 ^ 31) : f32Abs (f32Pack b (2 ^ 23 * f + s)) = s * 2 ^ f := by
  rw [f32Abs, f32Exp_f32Pack h, f32Frac_f32Pack h, Nat.mul_add_div (by decide), Nat.mul_add_mod]
  obtain hlow | hmid | rfl : s < 2 ^ 23 ∨ (2 ^ 23 ≤ s ∧ s < 2 ^ 24) ∨ s = 2 ^ 24 := by omega
  · have hf0 : f = 0 := by by_contra hne; have := hf hne; omega
    subst hf0
    rw [Nat.div_eq_of_lt hlow, Nat.mod_eq_of_lt hlow]
    simp
  · have hdiv : s / 2 ^ 23 = 1 := by omega
    have hmod : 2 ^ 23 + s % 2 ^ 23 = s := by omega
    rw [hdiv, hmod, if_neg (by omega), Nat.add_sub_cancel]
  · rw [if_neg (by omega)]
    norm_num
    ring

/-- A pattern's significand has 24 bits. -/
theorem f32Abs_eq_mul_pow (x : Word) : ∃ s e, s < 2 ^ 24 ∧ f32Abs x = s * 2 ^ e := by
  have hfrac : f32Frac x < 2 ^ 23 := by rw [f32Frac_eq]; exact Nat.mod_lt _ (by decide)
  unfold f32Abs
  split
  · exact ⟨f32Frac x, 0, by omega, by simp⟩
  · exact ⟨2 ^ 23 + f32Frac x, f32Exp x - 1, by omega, rfl⟩

theorem f32Units_natAbs (x : Word) : (f32Units x).natAbs = f32Abs x := by
  unfold f32Units
  split <;> simp

/-! The pattern of a rational. -/

theorem f32Magnitude_lt (m d : Nat) : f32Magnitude m d < 2 ^ 31 :=
  (Nat.min_le_right _ _).trans_lt (by decide)

theorem rne32_zero (d : Nat) : rne32 0 d = 0#32 := by
  have hshift : f32Shift 0 d = 0 := by simp [f32Shift]
  have hsig : f32Significand 0 d = 0 := by simp [f32Significand, roundHalfEven]
  have hmag : f32Magnitude 0 d = 0 := by rw [f32Magnitude_eq, hshift, hsig]; rfl
  rw [rne32, Int.natAbs_zero, hmag]
  rfl

section Rounded

variable {num : Int} {den : Nat}

theorem f32Exp_rne32 : f32Exp (rne32 num den) = f32Magnitude num.natAbs den / 2 ^ 23 :=
  f32Exp_f32Pack (f32Magnitude_lt _ _)

/-- Below 2^127 the magnitude does not reach that of infinity. -/
theorem f32Exp_rne32_of_lt (hd : 0 < den) (h : num.natAbs < 2 ^ 127 * den) :
    f32Exp (rne32 num den) ≠ 255 := by
  have hunits : 2 ^ 149 * num.natAbs / den < 2 ^ 276 := by
    rw [Nat.div_lt_iff_lt_mul hd]
    omega
  have hshift : f32Shift num.natAbs den ≤ 252 := by
    have hlog := Nat.log_lt_of_lt_pow' (by decide) hunits
    rw [← Nat.log2_eq_log_two] at hlog
    unfold f32Shift
    omega
  have hsig := f32Significand_le num.natAbs den
  rw [f32Exp_rne32, f32Magnitude_eq]
  omega

/-- A finite result is no infinity cut off: its magnitude is shift and significand. -/
theorem f32Magnitude_of_finite (h : f32Exp (rne32 num den) ≠ 255) :
    f32Magnitude num.natAbs den =
      2 ^ 23 * f32Shift num.natAbs den + f32Significand num.natAbs den := by
  rw [f32Exp_rne32] at h
  rw [f32Magnitude_eq] at h ⊢
  omega

theorem f32Frac_rne32_mod_two (h : f32Exp (rne32 num den) ≠ 255) :
    f32Frac (rne32 num den) % 2 = f32Significand num.natAbs den % 2 := by
  rw [rne32, f32Frac_f32Pack (f32Magnitude_lt _ _), f32Magnitude_of_finite h]
  omega

theorem f32Units_rne32 (h : f32Exp (rne32 num den) ≠ 255) :
    f32Units (rne32 num den) =
      (if num < 0 then -1 else 1) *
        (f32Significand num.natAbs den * 2 ^ f32Shift num.natAbs den : Nat) := by
  have hmag := f32Magnitude_of_finite h
  have hlt := f32Magnitude_lt num.natAbs den
  rw [hmag] at hlt
  rw [f32Units, rne32, f32Sign_f32Pack (f32Magnitude_lt _ _), hmag,
    f32Abs_f32Pack (f32Significand_le _ _) f32Significand_ge hlt]
  by_cases hneg : num < 0 <;> simp [hneg]

/-- The rounded value against the value of any pattern. The sign of `num` is taken out of both, since
the distances do not change when both sides are negated. -/
theorem rne32_nearest (hd : 0 < den) (h : f32Exp (rne32 num den) ≠ 255) (y : Word) :
    |f32Units (rne32 num den) * den - num * 2 ^ 149| ≤ |f32Units y * den - num * 2 ^ 149| ∧
      (|f32Units (rne32 num den) * den - num * 2 ^ 149| = |f32Units y * den - num * 2 ^ 149| →
        f32Units y ≠ f32Units (rne32 num den) → f32Frac (rne32 num den) % 2 = 0) := by
  obtain ⟨s, e, hs, hy⟩ := f32Abs_eq_mul_pow y
  rw [← f32Units_natAbs] at hy
  rw [f32Units_rne32 h, f32Frac_rne32_mod_two h]
  generalize f32Units y = z at hy ⊢
  by_cases hneg : num < 0
  · have hnum : num = -(num.natAbs : Int) := by omega
    have hflip (w : Int) : |w * den - num * 2 ^ 149| = |-w * den - num.natAbs * 2 ^ 149| := by
      rw [← abs_neg]
      congr 1
      linear_combination 2 ^ 149 * hnum
    obtain ⟨hle, heven⟩ :=
      f32Significand_nearest (m := num.natAbs) hd hs (z := -z) (by rwa [Int.natAbs_neg])
    rw [if_pos hneg, neg_one_mul, hflip, hflip, neg_neg]
    exact ⟨hle, fun heq hne => heven heq fun hz => hne (by rw [← hz, neg_neg])⟩
  · have hnum : (num.natAbs : Int) = num := Int.natAbs_of_nonneg (not_lt.mp hneg)
    have := f32Significand_nearest (m := num.natAbs) hd hs hy
    rw [if_neg hneg, one_mul]
    rwa [hnum] at this

end Rounded

/-- Settles O12: the rounded significand is nearest among the multiples of its last place, and no
value with smaller places comes between. -/
theorem roundsToNearestEven : Obligations.RoundsToNearestEven := fun _ den hd =>
  ⟨rne32_zero den, f32Exp_rne32_of_lt hd, fun hfin y _ => rne32_nearest hd hfin y⟩

end Sys2Proof.Machine

/-! PROOFS. The statements of 10_state.md: the command port (R21), the coefficient store and its flag
(R22 to R25, R30), and the history no command reads (R39). -/

namespace Sys2Proof.Machine

/-! ### What a step can do -/

/-- The reply of a command presented to the block: that of the instruction it decodes to, or the
report of an illegal opcode. -/
def performReply (cmd : Command) (s : State) : Reply :=
  match decode cmd with
  | .ok i => replyOf i s
  | .error _ => raise s .illegalCommand

theorem performReply_of_decode {cmd : Command} {i : Instr} (h : decode cmd = .ok i) (s : State) :
    performReply cmd s = replyOf i s := by
  rw [performReply, h]

theorem performReply_of_error {cmd : Command} {e : DecodeError} (h : decode cmd = .error e)
    (s : State) : performReply cmd s = raise s .illegalCommand := by
  rw [performReply, h]

theorem perform_of_decode {cmd : Command} {i : Instr} (h : decode cmd = .ok i) (s : State) :
    perform cmd s = exec i s := by
  rw [perform, h]

theorem perform_of_error {cmd : Command} {e : DecodeError} (h : decode cmd = .error e) (s : State) :
    perform cmd s = deliver (raise s .illegalCommand) := by
  rw [perform, h]
  rfl

theorem performReply_keeps (cmd : Command) (s : State) : Keeps s (performReply cmd s) := by
  cases h : decode cmd with
  | ok i => rw [performReply_of_decode h]; exact replyOf_keeps i s
  | error e => rw [performReply_of_error h]; exact .raise _ _

/-- What a reply shows the host. -/
def Reply.shown (r : Reply) : Observation := ⟨r.result, r.trace⟩

/-- A reply delivered adds what it shows to the history. -/
theorem Keeps.observed_delivered {s : State} {r : Reply} (h : Keeps s r) :
    (observe r.state r.result r.trace).observed = s.observed ++ [r.shown] := by
  rw [observe_observed, h.observed]
  rfl

/-- A command that answers a next state delivered its reply. -/
theorem perform_next {cmd : Command} {s t : State} (h : perform cmd s = .next t) :
    t = observe (performReply cmd s).state (performReply cmd s).result (performReply cmd s).trace := by
  cases hd : decode cmd with
  | ok i =>
    rw [perform_of_decode hd] at h
    rw [performReply_of_decode hd]
    exact (exec_next h).2
  | error e =>
    rw [perform_of_error hd] at h
    rw [performReply_of_error hd]
    exact (Host.Outcome.next.inj h).symm

/-- While the transport answers, every command is answered. -/
theorem perform_answering {s : State} (h : s.hung = false) (cmd : Command) :
    perform cmd s = deliver (performReply cmd s) := by
  cases hd : decode cmd with
  | ok i =>
    rw [perform_of_decode hd, performReply_of_decode hd, exec_eq, stuck, h, Bool.false_and]
    rfl
  | error e => rw [perform_of_error hd, performReply_of_error hd]

theorem step_idle {s : State} (h : s.inputs = []) : step s = .next s := by
  rw [step, nextInput, h]

theorem step_blockReset {s : State} {rest : List Input} (h : s.inputs = .blockReset :: rest) :
    step s = .next (blockReset { s with inputs := rest }) := by
  rw [step, nextInput, h]

theorem step_command {s : State} {cmd : Command} {rest : List Input}
    (h : s.inputs = .command cmd :: rest) : step s = perform cmd { s with inputs := rest } := by
  rw [step, nextInput, h]

/-- A step to a next state idles, resets the block, or delivers the reply of the next command. -/
theorem step_cases {s t : State} (h : step s = .next t) :
    (s.inputs = [] ∧ t = s) ∨
    (∃ rest, s.inputs = .blockReset :: rest ∧ t = blockReset { s with inputs := rest }) ∨
    ∃ cmd rest, s.inputs = .command cmd :: rest ∧
      perform cmd { s with inputs := rest } = .next t := by
  match hin : s.inputs with
  | [] =>
    rw [step_idle hin] at h
    exact .inl ⟨rfl, (Host.Outcome.next.inj h).symm⟩
  | .blockReset :: rest =>
    rw [step_blockReset hin] at h
    exact .inr (.inl ⟨rest, rfl, (Host.Outcome.next.inj h).symm⟩)
  | .command cmd :: rest =>
    rw [step_command hin] at h
    exact .inr (.inr ⟨cmd, rest, rfl, h⟩)

/-! ### What a command does to the store -/

/-- A reply after at most `n` transactions. -/
structure EventsLe (n : Nat) (r : Reply) : Prop where
  length_le : r.trace.length ≤ n

namespace EventsLe

variable {n : Nat} {s : State} {r : Reply}

theorem done (s : State) (res : Result) : EventsLe n (done s res) := ⟨Nat.zero_le n⟩

theorem raise (s : State) (e : Status) : EventsLe n (raise s e) := ⟨Nat.zero_le n⟩

theorem traced (ev : BusEvent) (h : EventsLe n r) : EventsLe (n + 1) (traced ev r) :=
  ⟨Nat.succ_le_succ h.length_le⟩

theorem stageReply (s : State) (stage : Stage) (f : Int → Result → Result) :
    EventsLe n (stageReply s stage f) := by
  cases stage with
  | error e => exact raise _ _
  | ok v => exact done _ _

theorem decodeModeInto (s : State) (image : Byte) (res : Result) :
    EventsLe n (decodeModeInto s image res) := by
  obtain ⟨_, _, -, -, h⟩ := decodeModeInto_spec s image res
  rw [h]
  exact done _ _

theorem pipeline (s : State) (x : Burst) (offset : Word) : EventsLe n (pipeline s x offset) := by
  obtain ⟨_, -, h⟩ | ⟨_, -, h⟩ := pipeline_cases s x offset <;> rw [h]
  · exact raise _ _
  · exact done _ _

theorem busRead {addr : RegAddr} {count : Nat} {k : State → List Byte → Reply}
    (hk : ∀ s' bs, EventsLe n (k s' bs)) : EventsLe (n + 1) (busRead s addr count k) := by
  obtain ⟨_, _, -, ⟨-, h⟩ | ⟨_, -, -, h⟩⟩ := busRead_cases s addr count k <;> rw [h]
  · exact .traced _ (raise _ _)
  · exact .traced _ (hk _ _)

theorem writeImage (s : State) (addr : RegAddr) (v : Byte) : EventsLe 1 (writeImage s addr v) := by
  obtain ⟨answer, _, -, h⟩ := busWrite_cases s addr v fun s => Machine.done s { byte := v }
  rw [Machine.writeImage, h]
  cases answer with
  | ok => exact .traced _ (done _ _)
  | fail => exact .traced _ (raise _ _)

/-- The calibration test before a body. -/
theorem ite {c : Bool} {r' : Reply} (h : EventsLe n r) (h' : EventsLe n r') :
    EventsLe n (if c then r else r') := by
  cases c <;> assumption

end EventsLe

/-- Every command but LOAD_CALIB issues at most one transaction. -/
theorem replyOf_eventsLe_one {i : Instr} (s : State) (hi : i ≠ .loadCalib) :
    EventsLe 1 (replyOf i s) := by
  cases i
  case loadCalib => exact absurd rfl hi
  case compT | compP | compH => exact .ite (.stageReply ..) (.raise ..)
  case compAll => exact .ite (.pipeline ..) (.raise ..)
  case readAll => exact .ite (.busRead fun _ _ => .pipeline ..) (.raise ..)
  case readBusy | readChipId => exact .busRead fun _ _ => .done ..
  case readMode => exact .busRead fun _ _ => .decodeModeInto ..
  case writeCtrlHum | writeCtrlMeas | writeConfig | softReset => exact .writeImage ..
  case decMode => exact .decodeModeInto ..
  all_goals exact .done ..

/-- The reply keeps the store and is no committed load. -/
def NotCommitted (s : State) (r : Reply) : Prop := StoreKept s r ∧ loadCommitted r.shown = false

/-- The reply is the load that makes an invalid store valid. -/
def Committed (s : State) (r : Reply) : Prop :=
  s.calibValid = false ∧ r.state.calibValid = true ∧ LoadedBy r.state r.shown

theorem loadCommitted_of_error {o : Observation} (h : o.result.status ≠ 0#8) :
    loadCommitted o = false := by
  rw [loadCommitted, beq_false_of_ne h, Bool.and_false]

theorem loadCommitted_of_eventsLe_one {r : Reply} (h : EventsLe 1 r) :
    loadCommitted r.shown = false := by
  have hne : r.trace.length ≠ 3 := by have := h.length_le; omega
  simp [loadCommitted, Reply.shown, hne]

/-- `LoadedBy` looks at the parameters and the coefficients only. -/
theorem LoadedBy.congr {s t : State} {o : Observation} (h : LoadedBy s o)
    (hparams : t.params = s.params) (hcalib : t.calib = s.calib) : LoadedBy t o := by
  unfold LoadedBy
  rw [hparams, hcalib]
  exact h

theorem LoadedBy.loadCommitted_eq {s : State} {o : Observation} (h : LoadedBy s o) :
    loadCommitted o = true := by
  obtain ⟨_, _, _, -, -, -, hres, htr, -⟩ := h
  rw [loadCommitted, hres, htr]
  rfl

/-- A locked LOAD_CALIB is an error (R25). -/
theorem replyOf_loadCalib_locked {s : State} (h : s.calibValid = true) :
    replyOf .loadCalib s = raise s .calibrationLocked := if_pos h

theorem replyOf_loadCalib_unlocked {s : State} (h : s.calibValid = false) :
    replyOf .loadCalib s = loadSpans s := by
  simp [replyOf, h]

/-- LOAD_CALIB with the store invalid: the three reads commit or leave everything as it was. -/
theorem loadSpans_store {s : State} (h : s.calibValid = false) :
    NotCommitted s (loadSpans s) ∨ Committed s (loadSpans s) := by
  obtain ⟨hkept, hres, -⟩ | ⟨a, b, c, ha, hb, hc, hres, htr, hcalib, hvalid⟩ := loadSpans_cases s
  · exact .inl ⟨hkept, loadCommitted_of_error (by simp [Reply.shown, hres])⟩
  · have hp := (Keeps.loadSpans s).params
    exact .inr ⟨h, hvalid, a, b, c, ha, hb, hc, hres, by rw [hp]; exact htr, by rw [hp]; exact hcalib⟩

/-- The store changes by an unlocked LOAD_CALIB only (R25). -/
theorem replyOf_store (i : Instr) (s : State) :
    NotCommitted s (replyOf i s) ∨ (i = .loadCalib ∧ Committed s (replyOf i s)) := by
  by_cases hi : i = .loadCalib
  · subst hi
    cases hv : s.calibValid with
    | true =>
      rw [replyOf_loadCalib_locked hv]
      exact .inl ⟨⟨rfl, rfl⟩, rfl⟩
    | false =>
      rw [replyOf_loadCalib_unlocked hv]
      exact (loadSpans_store hv).imp_right fun h => ⟨rfl, h⟩
  · exact .inl ⟨replyOf_storeKept i s hi, loadCommitted_of_eventsLe_one (replyOf_eventsLe_one s hi)⟩

theorem performReply_store (cmd : Command) (s : State) :
    NotCommitted s (performReply cmd s) ∨ Committed s (performReply cmd s) := by
  cases h : decode cmd with
  | ok i => rw [performReply_of_decode h]; exact (replyOf_store i s).imp_right And.right
  | error e => rw [performReply_of_error h]; exact .inl ⟨⟨rfl, rfl⟩, rfl⟩

/-! ### The store's provenance -/

theorem storeProvenance_of_notCommitted {s : State} {r : Reply} (hs : StoreProvenance s)
    (hkeeps : Keeps s r) (h : NotCommitted s r) :
    StoreProvenance (observe r.state r.result r.trace) := by
  obtain ⟨⟨hcalib, hvalid⟩, hno⟩ := h
  obtain ⟨hinvalid, hloaded⟩ := hs
  have hcount : (observe r.state r.result r.trace).observed.countP loadCommitted =
      s.observed.countP loadCommitted := by
    rw [hkeeps.observed_delivered, List.countP_append, List.countP_singleton, hno]
    rfl
  refine ⟨fun h0 => ?_, fun h1 => ?_⟩
  · rw [hcount, observe_calib, hcalib]
    exact hinvalid (hvalid.symm.trans h0)
  · obtain ⟨hone, o, ho, hby⟩ := hloaded (hvalid.symm.trans h1)
    refine ⟨hcount.trans hone, o, ?_, hby.congr hkeeps.params hcalib⟩
    rw [hkeeps.observed_delivered]
    exact List.mem_append_left _ ho

theorem storeProvenance_of_committed {s : State} {r : Reply} (hs : StoreProvenance s)
    (hkeeps : Keeps s r) (h : Committed s r) :
    StoreProvenance (observe r.state r.result r.trace) := by
  obtain ⟨hinvalid, hvalid, hby⟩ := h
  obtain ⟨-, hnone⟩ := hs.1 hinvalid
  refine ⟨fun h0 => absurd (hvalid.symm.trans h0) (by decide), fun _ => ⟨?_, r.shown, ?_, ?_⟩⟩
  · rw [hkeeps.observed_delivered, List.countP_append, hnone, List.countP_singleton,
      hby.loadCommitted_eq]
    rfl
  · rw [hkeeps.observed_delivered]
    exact List.mem_append_right _ (List.mem_singleton.mpr rfl)
  · exact hby.congr rfl rfl

theorem storeProvenance_perform {cmd : Command} {s t : State} (hs : StoreProvenance s)
    (h : perform cmd s = .next t) : StoreProvenance t := by
  rw [perform_next h]
  have hkeeps := performReply_keeps cmd s
  obtain h | h := performReply_store cmd s
  · exact storeProvenance_of_notCommitted hs hkeeps h
  · exact storeProvenance_of_committed hs hkeeps h

theorem storeProvenance_blockReset (s : State) : StoreProvenance (blockReset s) :=
  ⟨fun _ => ⟨rfl, rfl⟩, nofun⟩

/-- Settles O55: a command commits the load of an invalid store or keeps store and count, a block
reset starts over. -/
theorem storeProvenanceInvariant : Obligations.StoreProvenanceInvariant := by
  intro s t hs hstep
  obtain ⟨-, rfl⟩ | ⟨rest, -, rfl⟩ | ⟨cmd, rest, -, hperform⟩ := step_cases hstep
  · exact hs
  · exact storeProvenance_blockReset _
  · exact storeProvenance_perform (s := { s with inputs := rest }) hs hperform

/-- Settles O49: a reply that is not the committed load of an invalid store keeps the store, and a
locked load is the error alone. -/
theorem storeWrittenOnlyByLoad : Obligations.StoreWrittenOnlyByLoad := by
  refine ⟨fun i s t hexec hchanged => ?_, fun s hvalid => ?_⟩
  · obtain ⟨-, rfl⟩ := exec_next hexec
    obtain ⟨⟨hcalib, hvalid⟩, -⟩ | ⟨hi, hinvalid, -⟩ := replyOf_store i s
    · exact absurd hchanged (by simp [hcalib, hvalid])
    · exact ⟨hi, hinvalid⟩
  · have hexec : exec .loadCalib s = deliver (raise s .calibrationLocked) := by
      rw [exec_eq, stuck, reachesBus, hvalid, replyOf_loadCalib_locked hvalid]
      simp
    exact ⟨_, hexec, rfl, rfl, by simp [resultOf, hexec, deliver_eq, statusCode]⟩

/-! ### The ranges of the coefficients -/

theorem coefU16_range (span : List Byte) (i : Nat) :
    0 ≤ coefU16 span i ∧ coefU16 span i ≤ 65535 := by
  unfold coefU16
  omega

theorem coefS16_range (span : List Byte) (i : Nat) :
    -32768 ≤ coefS16 span i ∧ coefS16 span i ≤ 32767 := by
  unfold coefS16
  have := BitVec.le_toInt (le16 (byteAt span i) (byteAt span (i + 1)))
  have := BitVec.toInt_lt (x := le16 (byteAt span i) (byteAt span (i + 1)))
  omega

theorem coef12_range (signExtend : Bool) (v : BitVec 12) :
    (if signExtend then (-2048, 2047) else (0, 4095) : Int × Int).1 ≤ coef12 signExtend v ∧
      coef12 signExtend v ≤ (if signExtend then (-2048, 2047) else (0, 4095) : Int × Int).2 := by
  have := BitVec.le_toInt v
  have := BitVec.toInt_lt (x := v)
  cases signExtend <;> simp [coef12] <;> omega

theorem byte_toNat_range (v : Byte) : (0 : Int) ≤ v.toNat ∧ (v.toNat : Int) ≤ 255 := by omega

theorem byte_toInt_range (v : Byte) : -128 ≤ v.toInt ∧ v.toInt ≤ 127 := by
  have := BitVec.le_toInt v
  have := BitVec.toInt_lt (x := v)
  omega

/-- Whatever bytes a load reads, each coefficient is a value of its type (R22, R23). -/
theorem assemble_inRange (signExtend : Bool) (a h e : List Byte) :
    StoreInRange signExtend (assemble signExtend a h e) := by
  intro i
  fin_cases i
  -- T1 to T3, then P1 to P9, then H1 to H6.
  exacts [coefU16_range .., coefS16_range .., coefS16_range ..,
    coefU16_range .., coefS16_range .., coefS16_range .., coefS16_range .., coefS16_range ..,
    coefS16_range .., coefS16_range .., coefS16_range .., coefS16_range ..,
    byte_toNat_range _, coefS16_range .., byte_toNat_range _, coef12_range .., coef12_range ..,
    byte_toInt_range _]

theorem zero_inRange (signExtend : Bool) : StoreInRange signExtend Calib.zero := by
  cases signExtend <;> decide

/-- Settles O54: the store is kept, cleared, or assembled from the bytes of a load. -/
theorem storeInRangeInvariant : Obligations.StoreInRangeInvariant := by
  intro s t hs hstep
  obtain ⟨-, rfl⟩ | ⟨rest, -, rfl⟩ | ⟨cmd, rest, -, hperform⟩ := step_cases hstep
  · exact hs
  · exact zero_inRange _
  · rw [perform_next hperform, observe_params, observe_calib]
    obtain ⟨⟨hcalib, -⟩, -⟩ | ⟨-, -, a, b, c, -, -, -, -, -, hcalib⟩ :=
      performReply_store cmd { s with inputs := rest }
    · rw [hcalib, (performReply_keeps ..).params]
      exact hs
    · rw [hcalib]
      exact assemble_inRange _ a b c

/-! ### What no command reads -/

/-- The state with what no command may read replaced: the history, and by `f` the coefficients while
`CALIB_VALID` is 0. -/
def maskUnread (f : Calib → Calib) (past : List Observation) (s : State) : State :=
  { s with calib := if s.calibValid then s.calib else f s.calib, observed := past }

section Unread

variable {f : Calib → Calib} {past : List Observation} {s : State}

theorem maskUnread_valid (h : s.calibValid = true) :
    (maskUnread f past s).calib = s.calib := if_pos h

@[simp] theorem maskUnread_calibValid : (maskUnread f past s).calibValid = s.calibValid := rfl
@[simp] theorem maskUnread_params : (maskUnread f past s).params = s.params := rfl
@[simp] theorem maskUnread_oracle : (maskUnread f past s).oracle = s.oracle := rfl

/-- The same masking of a reply's state. -/
def Reply.maskUnread (f : Calib → Calib) (past : List Observation) (r : Reply) : Reply :=
  { r with state := Machine.maskUnread f past r.state }

theorem drawRead_maskUnread (addr : RegAddr) (n : Nat) :
    drawRead (maskUnread f past s) addr n =
      ((drawRead s addr n).1, maskUnread f past (drawRead s addr n).2) := by
  unfold drawRead
  rw [maskUnread_oracle]
  split <;> rfl

theorem drawWrite_maskUnread (addr : RegAddr) (v : Byte) :
    drawWrite (maskUnread f past s) addr v =
      ((drawWrite s addr v).1, maskUnread f past (drawWrite s addr v).2) := by
  unfold drawWrite
  rw [maskUnread_oracle]
  split <;> rfl

theorem busRead_maskUnread {addr : RegAddr} {n : Nat} {k : State → List Byte → Reply}
    (hk : ∀ s' bs, s'.calibValid = s.calibValid →
      k (maskUnread f past s') bs = (k s' bs).maskUnread f past) :
    busRead (maskUnread f past s) addr n k = (busRead s addr n k).maskUnread f past := by
  unfold busRead
  rw [drawRead_maskUnread]
  cases acceptBytes n (drawRead s addr n).1 with
  | none => rfl
  | some bs =>
    simp only [afterRead]
    rw [hk _ bs (drawRead_calibValid ..)]
    rfl

theorem writeImage_maskUnread (addr : RegAddr) (v : Byte) :
    writeImage (maskUnread f past s) addr v = (writeImage s addr v).maskUnread f past := by
  unfold writeImage busWrite
  rw [drawWrite_maskUnread]
  cases (drawWrite s addr v).1 <;> rfl

theorem stageReply_maskUnread (stage : Stage) (g : Int → Result → Result) :
    stageReply (maskUnread f past s) stage g = (stageReply s stage g).maskUnread f past := by
  cases stage <;> rfl

theorem decodeModeInto_maskUnread (image : Byte) (res : Result) :
    decodeModeInto (maskUnread f past s) image res =
      (decodeModeInto s image res).maskUnread f past := by
  unfold decodeModeInto
  rw [maskUnread_params]
  split <;> rfl

theorem addOffset_maskUnread (t offset : Word) :
    addOffset (maskUnread f past s) t offset =
      ((addOffset s t offset).1, maskUnread f past (addOffset s t offset).2) := rfl

theorem pipeline_maskUnread (h : s.calibValid = true) (x : Burst) (offset : Word) :
    pipeline (maskUnread f past s) x offset = (pipeline s x offset).maskUnread f past := by
  unfold pipeline
  rw [maskUnread_params, maskUnread_valid h]
  simp only [addOffset_maskUnread]
  split <;> rfl

/-- The commit writes every coefficient and makes the store valid, so nothing masked is left. -/
theorem loadSpans_maskUnread :
    loadSpans (maskUnread f past s) = (loadSpans s).maskUnread f past :=
  busRead_maskUnread fun _ _ _ => busRead_maskUnread fun _ _ _ => busRead_maskUnread fun _ _ _ => rfl

/-- The calibration test before a body: only the body of a valid store is looked at. -/
theorem ifValid_maskUnread {r r' : Reply} (h : s.calibValid = true → r' = r.maskUnread f past)
    (e : Status) :
    (if (maskUnread f past s).calibValid then r' else raise (maskUnread f past s) e) =
      (if s.calibValid then r else raise s e).maskUnread f past := by
  rw [maskUnread_calibValid]
  split_ifs with hvalid
  · exact h hvalid
  · rfl

/-- A command's reply reads neither the history nor the coefficients of an invalid store. -/
theorem replyOf_maskUnread (i : Instr) :
    replyOf i (maskUnread f past s) = (replyOf i s).maskUnread f past := by
  cases i
  case loadCalib =>
    cases hv : s.calibValid with
    | true =>
      rw [replyOf_loadCalib_locked hv, replyOf_loadCalib_locked (by rw [maskUnread_calibValid, hv])]
      rfl
    | false =>
      rw [replyOf_loadCalib_unlocked hv,
        replyOf_loadCalib_unlocked (by rw [maskUnread_calibValid, hv])]
      exact loadSpans_maskUnread
  case compT | compP | compH =>
    exact ifValid_maskUnread (fun h => by
      rw [maskUnread_params, maskUnread_valid h]
      exact stageReply_maskUnread ..) _
  case compAll => exact ifValid_maskUnread (fun h => pipeline_maskUnread h ..) _
  case readAll =>
    exact ifValid_maskUnread (fun h => busRead_maskUnread fun _ _ hvalid =>
      pipeline_maskUnread (hvalid.trans h) ..) _
  case readBusy | readChipId => exact busRead_maskUnread fun _ _ _ => rfl
  case readMode => exact busRead_maskUnread fun _ _ _ => decodeModeInto_maskUnread ..
  case writeCtrlHum | writeCtrlMeas | writeConfig | softReset => exact writeImage_maskUnread ..
  case decMode => exact decodeModeInto_maskUnread ..
  all_goals rfl

/-- What a command does with what it may not read masked: the same, with its pair added to the
replaced history. -/
theorem exec_maskUnread {i : Instr} {t : State} (h : exec i s = .next t) :
    exec i (maskUnread f past s) =
      .next (observe (maskUnread f past (replyOf i s).state) (replyOf i s).result
        (replyOf i s).trace) := by
  obtain ⟨hstuck, -⟩ := exec_next h
  have hstuck' : stuck i (maskUnread f past s) = false := hstuck
  rw [exec_eq, hstuck', replyOf_maskUnread]
  rfl

end Unread

/-- Settles O53: the history masked, the coefficients left as they are. -/
theorem historyNeverRead : Obligations.HistoryNeverRead := by
  intro i s t past hexec
  have hmasked := exec_maskUnread (f := id) (past := past) hexec
  obtain ⟨-, rfl⟩ := exec_next hexec
  refine ⟨(replyOf i s).shown, (replyOf_keeps i s).observed_delivered, ?_⟩
  simpa [maskUnread, observe, Reply.shown] using hmasked

theorem coef_zero (i : Fin 18) : coef Calib.zero i = 0 := by
  revert i
  decide

/-- Settles O9: the coefficients of an invalid store masked, the history left as it is. -/
theorem resetClearsStore : Obligations.ResetClearsStore := by
  refine ⟨rfl, coef_zero, fun s rest hin => ⟨_, step_blockReset hin, rfl, coef_zero⟩, ?_⟩
  intro i s t c hinvalid hexec
  have hmasked := exec_maskUnread (f := fun _ => c) (past := s.observed) hexec
  have hs : maskUnread (fun _ => c) s.observed s = { s with calib := c } := by
    simp [maskUnread, hinvalid]
  obtain ⟨-, rfl⟩ := exec_next hexec
  rw [hs] at hmasked
  refine ⟨_, hmasked, ?_⟩
  rw [(replyOf_keeps i s).observed_delivered]
  rfl

/-! ### The command port -/

/-- Settles O7: the step takes the command off the port and decodes it. -/
theorem stepRunsDecodedCommand : Obligations.StepRunsDecodedCommand :=
  ⟨fun _ _ _ _ hin hdecode => by rw [step_command hin, perform_of_decode hdecode],
    fun _ hin => step_idle hin⟩

/-- Settles O58: at reset the store is clear and nothing has been shown or written. -/
theorem resetMeetsInvariants : Obligations.ResetMeetsInvariants :=
  ⟨zero_inRange _, ⟨fun _ => ⟨rfl, rfl⟩, nofun⟩, nofun, rfl⟩

theorem coreRun_succ {M : Host.Core} {s s' : M.State} (h : M.step s = .next s') (k : Nat) :
    M.run (k + 1) s = M.run k s' := by
  rw [Host.Core.run, h]

/-- While the transport answers, a command leaves the port behind it and the transport as they are
and adds one pair. -/
theorem perform_adds_one {s : State} (h : s.hung = false) (cmd : Command) :
    ∃ t o, perform cmd s = .next t ∧ t.inputs = s.inputs ∧ t.hung = false ∧
      t.observed = s.observed ++ [o] := by
  have hkeeps := performReply_keeps cmd s
  exact ⟨_, _, perform_answering h cmd, hkeeps.inputs, hkeeps.hung.trans h,
    hkeeps.observed_delivered⟩

/-- From a state `s` with the inputs `port`, the `k`-th of the pairs `os` is the one that performing
`cmd`, the `k`-th input, adds in the state that `k` steps reach. -/
def AddsPair (s : State) (port : List Input) (os : List Observation) (k : Nat) (cmd : Command) : Prop :=
  ∃ (u v : State) (o : Observation), Host.Core.run core k s = .next u ∧
    u.inputs = .command cmd :: port.drop (k + 1) ∧ u.observed = s.observed ++ os.take k ∧
    perform cmd { u with inputs := port.drop (k + 1) } = .next v ∧
    v.observed = u.observed ++ [o] ∧ os[k]? = some o

section FirstCommand

variable {s s' : State} {c : Command} {rest : List Input} {o : Observation} {os : List Observation}
  (hin : s.inputs = .command c :: rest) (hperform : perform c { s with inputs := rest } = .next s')
  (hobs : s'.observed = s.observed ++ [o])

include hin hperform hobs

theorem addsPair_zero : AddsPair s (.command c :: rest) (o :: os) 0 c :=
  ⟨s, s', o, rfl, hin, (List.append_nil _).symm, hperform, hobs, rfl⟩

/-- The pairs after the first command are those of the state it leaves. -/
theorem addsPair_succ {k : Nat} {cmd : Command} (h : AddsPair s' rest os k cmd) :
    AddsPair s (.command c :: rest) (o :: os) (k + 1) cmd := by
  obtain ⟨u, v, p, hrun, hport, hpast, hnext, hadd, hget⟩ := h
  have hstep := (step_command hin).trans hperform
  refine ⟨u, v, p, (coreRun_succ (M := core) hstep k).trans hrun, hport, ?_, hnext, hadd, hget⟩
  rw [hpast, hobs, List.append_assoc]
  rfl

end FirstCommand

/-- Settles O59: by induction on the commands that wait; the first one's step leaves the others on the
port and the transport answering. -/
theorem everyCommandAnswered : Obligations.EveryCommandAnswered := by
  intro s hhung hcommands
  induction hin : s.inputs generalizing s with
  | nil => exact ⟨s, rfl, hin, [], (List.append_nil _).symm, rfl, nofun⟩
  | cons x rest ih =>
    rw [hin] at hcommands
    obtain ⟨hx, hrest⟩ := List.forall_mem_cons.mp hcommands
    cases x with
    | blockReset => exact absurd rfl hx
    | command c =>
      obtain ⟨s', o, hperform, hin', hhung', hobs⟩ :=
        perform_adds_one (s := { s with inputs := rest }) hhung c
      have hstep := (step_command hin).trans hperform
      obtain ⟨t, hrun, hempty, os, hall, hlen, hpairs⟩ := ih s' hhung' (hin' ▸ hrest) hin'
      refine ⟨t, (coreRun_succ (M := core) hstep _).trans hrun, hempty, o :: os, ?_,
        congrArg (· + 1) hlen, fun k cmd hk => ?_⟩
      · rw [hall, hobs, List.append_assoc]
        rfl
      · cases k with
        | zero =>
          obtain rfl : c = cmd := by simpa using hk
          exact addsPair_zero hin hperform hobs
        | succ k => exact addsPair_succ hin hperform hobs (hpairs k cmd hk)

end Sys2Proof.Machine

/-! PROOFS. The statements of 20_memory.md: what answers the bus (R56, R57), which command writes the
register image (R51), and the canonical form of the image (log 5). -/

namespace Sys2Proof.Machine

/-! ### The bus oracle -/

section Draws

variable {s : State} {addr : RegAddr} {n : Nat} {v : Byte} {reads : List ReadAnswer}
  {writes : List WriteAnswer}

theorem drawRead_image (h : s.oracle = .image) :
    drawRead s addr n = (.ok (memReadSpan s.regs addr.toNat n), s) := by
  rw [drawRead, h]

theorem drawWrite_image (h : s.oracle = .image) :
    drawWrite s addr v = (.ok, { s with regs := imageWrite s.regs addr v }) := by
  rw [drawWrite, h]

theorem drawRead_listed {a : ReadAnswer} (h : s.oracle = .draws (a :: reads) writes) :
    drawRead s addr n = (a, { s with oracle := .draws reads writes }) := by
  rw [drawRead, h]

theorem drawWrite_listed {a : WriteAnswer} (h : s.oracle = .draws reads (a :: writes)) :
    drawWrite s addr v = (a, { s with oracle := .draws reads writes }) := by
  rw [drawWrite, h]

theorem drawRead_free (h : s.oracle = .draws [] writes) :
    drawRead s addr n = (freeReadAnswer s.fresh, { s with fresh := s.fresh + 1 }) := by
  rw [drawRead, h]

theorem drawWrite_free (h : s.oracle = .draws reads []) :
    drawWrite s addr v = (freeWriteAnswer s.fresh, { s with fresh := s.fresh + 1 }) := by
  rw [drawWrite, h]

/-- Only the image is written to. -/
theorem drawWrite_regs : (drawWrite s addr v).2.regs = s.regs ∨
    (drawWrite s addr v).2.regs = imageWrite s.regs addr v := by
  match h : s.oracle with
  | .image => exact .inr (by rw [drawWrite_image h])
  | .draws _ (_ :: _) => exact .inl (by rw [drawWrite_listed h])
  | .draws _ [] => exact .inl (by rw [drawWrite_free h])

end Draws

/-- Settles O37: one rule for each form of the oracle; the image answers a read with its span
(bursts past 0xFF, which no command issues: log 18). -/
theorem oracleAnswers : Obligations.OracleAnswers := by
  refine ⟨fun s addr n h => ?_, fun _ _ _ => drawWrite_image, fun _ _ _ _ _ _ => drawRead_listed,
    fun _ _ _ _ _ _ => drawWrite_listed, fun _ _ _ _ => drawRead_free,
    fun _ _ _ _ => drawWrite_free⟩
  exact ⟨memReadSpan s.regs addr.toNat n, drawRead_image h, memReadSpan_length .., fun i hi =>
    memReadSpan_getElem? _ _ _ i hi⟩

/-! ### What a command does to the register image -/

/-- The register image is as before, and still answers the bus if it did. -/
structure ImageKept (s : State) (r : Reply) : Prop where
  regs : r.state.regs = s.regs
  oracle : s.oracle = .image → r.state.oracle = .image

namespace ImageKept

variable {s : State} {r : Reply}

theorem done (s : State) (res : Result) : ImageKept s (done s res) := ⟨rfl, id⟩

theorem raise (s : State) (e : Status) : ImageKept s (raise s e) := ⟨rfl, id⟩

theorem traced (ev : BusEvent) (h : ImageKept s r) : ImageKept s (traced ev r) :=
  ⟨h.regs, h.oracle⟩

theorem decodeModeInto (s : State) (image : Byte) (res : Result) :
    ImageKept s (decodeModeInto s image res) := by
  obtain ⟨_, _, -, -, h⟩ := decodeModeInto_spec s image res
  rw [h]
  exact ⟨rfl, id⟩

theorem pipeline (s : State) (x : Burst) (offset : Word) : ImageKept s (pipeline s x offset) := by
  obtain ⟨_, -, h⟩ | ⟨_, -, h⟩ := pipeline_cases s x offset <;> rw [h]
  · exact raise _ _
  · exact ⟨rfl, id⟩

/-- A read never changes the image, nor what answers the bus while that is the image. -/
theorem of_drawRead {addr : RegAddr} {n : Nat} (h : ImageKept (drawRead s addr n).2 r) :
    ImageKept s r :=
  ⟨h.regs.trans (drawRead_regs ..), fun himage => h.oracle (by rw [drawRead_image himage, himage])⟩

theorem busRead {addr : RegAddr} {n : Nat} {k : State → List Byte → Reply}
    (hk : ∀ s' bs, ImageKept s' (k s' bs)) : ImageKept s (busRead s addr n k) := by
  obtain ⟨_, s', hd, hreply⟩ := busRead_cases s addr n k
  obtain rfl : (drawRead s addr n).2 = s' := by rw [hd]
  apply of_drawRead (addr := addr) (n := n)
  obtain ⟨-, h⟩ | ⟨bs, -, -, h⟩ := hreply <;> rw [h]
  · exact .traced _ (raise _ _)
  · exact .traced _ (hk _ bs)

theorem loadSpans (s : State) : ImageKept s (loadSpans s) :=
  .busRead fun _ _ => .busRead fun _ _ => .busRead fun _ _ => ⟨rfl, id⟩

/-- The calibration test before a body. -/
theorem ite {c : Bool} {r' : Reply} (h : ImageKept s r) (h' : ImageKept s r') :
    ImageKept s (if c then r else r') := by
  cases c <;> assumption

end ImageKept

/-- A command with no register to write keeps the image: off the bus, or reading. -/
theorem replyOf_imageKept {i : Instr} (hi : registerWritten i = none) (s : State) :
    ImageKept s (replyOf i s) := by
  cases hbus : isBus i with
  | false =>
    obtain ⟨horacle, hregs⟩ := replyOf_notBus i s hbus
    exact ⟨hregs, horacle.trans⟩
  | true =>
    cases i
    case loadCalib => exact .ite (.raise ..) (.loadSpans s)
    case readAll => exact .ite (.busRead fun _ _ => .pipeline ..) (.raise ..)
    case readMode => exact .busRead fun _ _ => .decodeModeInto ..
    case readBusy | readChipId => exact .busRead fun _ _ => .done ..
    case writeCtrlHum | writeCtrlMeas | writeConfig | softReset => exact absurd hi nofun
    all_goals exact absurd hbus nofun

/-- A write command is the one write of its image at its address. -/
theorem replyOf_registerWritten {i : Instr} {addr : RegAddr} {v : Byte}
    (hi : registerWritten i = some (addr, v)) (s : State) : replyOf i s = writeImage s addr v := by
  cases i
  case writeCtrlHum | writeCtrlMeas | writeConfig | softReset => cases hi; rfl
  all_goals exact absurd hi nofun

theorem writeImage_state (s : State) (addr : RegAddr) (v : Byte) :
    (writeImage s addr v).state = (drawWrite s addr v).2 := by
  obtain ⟨answer, s', hd, h⟩ := busWrite_cases s addr v fun s => done s { byte := v }
  rw [writeImage, h, hd]
  cases answer <;> rfl

/-- On the image a write command does its write to the image and nothing else. -/
theorem replyOf_state_of_registerWritten {i : Instr} {s : State} {addr : RegAddr} {v : Byte}
    (hi : registerWritten i = some (addr, v)) (himage : s.oracle = .image) :
    (replyOf i s).state = { s with regs := imageWrite s.regs addr v } := by
  rw [replyOf_registerWritten hi, writeImage_state, drawWrite_image himage]

/-- Settles O45: a write command's write is read back at its own address only, SOFT_RESET's is not
stored, and the other commands keep the image. -/
theorem registerImageFrame : Obligations.RegisterImageFrame := by
  intro i s t hwf himage hexec
  obtain ⟨-, rfl⟩ := exec_next hexec
  rw [observe_oracle, observe_regs]
  cases hi : registerWritten i with
  | none =>
    have hkept := replyOf_imageKept hi s
    exact ⟨hkept.oracle himage, nofun, fun _ k => by rw [hkept.regs]⟩
  | some w =>
    obtain ⟨addr, v⟩ := w
    rw [replyOf_state_of_registerWritten hi himage]
    refine ⟨himage, fun addr' v' heq hne => ?_, fun hreset k => ?_⟩
    · cases heq
      exact ⟨by rw [memRead_imageWrite hwf, if_pos ⟨hne, rfl⟩],
        fun k hk => by rw [memRead_imageWrite hwf, if_neg fun h => hk h.2]⟩
    · obtain rfl := hreset.resolve_left nofun
      cases hi
      rfl

/-! ### The canonical form -/

theorem replyOf_regs_wf (i : Instr) {s : State} (h : Memory.wf s.regs = true) :
    Memory.wf (replyOf i s).state.regs = true := by
  cases hi : registerWritten i with
  | none => rwa [(replyOf_imageKept hi s).regs]
  | some w =>
    rw [replyOf_registerWritten hi, writeImage_state]
    obtain hsame | hwritten := drawWrite_regs (s := s) (addr := w.1) (v := w.2)
    · rwa [hsame]
    · rw [hwritten]
      exact imageWrite_wf h

theorem performReply_regs_wf (cmd : Command) {s : State} (h : Memory.wf s.regs = true) :
    Memory.wf (performReply cmd s).state.regs = true := by
  cases hd : decode cmd with
  | ok i => rw [performReply_of_decode hd]; exact replyOf_regs_wf i h
  | error e => rwa [performReply_of_error hd]

/-- Settles O57: idling and a block reset keep the image, a command keeps it or writes it once; the
form is the model's (log 5). -/
theorem registerImageInvariant : Obligations.RegisterImageInvariant := by
  intro s t hwf hstep
  obtain ⟨-, rfl⟩ | ⟨rest, -, rfl⟩ | ⟨cmd, rest, -, hperform⟩ := step_cases hstep
  · exact hwf
  · exact hwf
  · rw [perform_next hperform, observe_regs]
    exact performReply_regs_wf cmd (s := { s with inputs := rest }) hwf

end Sys2Proof.Machine

/-! PROOFS. The statements of 30_encoding.md: decoder and encoder (R80 to R83, R103, R104), the
expansion of CONFIGURE (R88), the bytes of the coefficients (R95, R96), and what a command may show
(R84, R85). -/

namespace Sys2Proof.Machine

/-! ### Operand fields -/

theorem field20_eq (w : Word) : field20 w = w.toNat % 2 ^ 20 := by
  simp [field20]

theorem field16_eq (w : Word) : field16 w = w.toNat % 2 ^ 16 := by
  simp [field16]

theorem field8_eq (w : Word) : field8 w = BitVec.ofNat 8 w.toNat := by
  simp [field8, BitVec.extractLsb']

/-! A value of a field is read back from its word. -/

theorem toNat_wordOfNat {v : Nat} (h : fitsU 32 v = true) : (wordOfNat v).toNat = v := by
  simp only [fitsU, decide_eq_true_eq] at h
  rw [wordOfNat, BitVec.toNat_ofNat, Nat.mod_eq_of_lt h]

theorem field20_wordOfNat {v : Nat} (h : fitsU 20 v = true) : field20 (wordOfNat v) = v := by
  simp only [fitsU, decide_eq_true_eq] at h
  rw [field20_eq, wordOfNat, BitVec.toNat_ofNat]
  omega

theorem field16_wordOfNat {v : Nat} (h : fitsU 16 v = true) : field16 (wordOfNat v) = v := by
  simp only [fitsU, decide_eq_true_eq] at h
  rw [field16_eq, wordOfNat, BitVec.toNat_ofNat]
  omega

theorem toInt_wordOfInt {v : Int} (h : fitsS32 v = true) : (wordOfInt v).toInt = v := by
  simp only [fitsS32, Bool.and_eq_true, decide_eq_true_eq] at h
  exact toInt_ofInt_of_fitsS (by decide) (fitsS_iff.mpr (by omega))

theorem field8_wordOfByte (v : Byte) : field8 (wordOfByte v) = v := by
  rw [field8_eq]
  exact BitVec.setWidth_setWidth_of_le v (by decide : 8 ≤ 32)

/-- Each of four bytes is read back from its place in their word. -/
theorem extract_wordOfBytes (x y z w : Byte) :
    (wordOfBytes x y z w).extractLsb' 24 8 = x ∧ (wordOfBytes x y z w).extractLsb' 16 8 = y ∧
      (wordOfBytes x y z w).extractLsb' 8 8 = z ∧ (wordOfBytes x y z w).extractLsb' 0 8 = w := by
  refine ⟨?_, ?_, ?_, ?_⟩ <;>
    · ext i hi
      simp only [wordOfBytes, BitVec.getElem_extractLsb', BitVec.getLsbD_or,
        BitVec.getLsbD_shiftLeft, BitVec.getLsbD_setWidth]
      grind

theorem burstOfWords_burstWords (x : Burst) : burstOfWords (burstWordA x) (burstWordB x) = x := by
  obtain ⟨ha0, ha1, ha2, ha3⟩ := extract_wordOfBytes x.b0 x.b1 x.b2 x.b3
  obtain ⟨hb0, hb1, hb2, hb3⟩ := extract_wordOfBytes x.b4 x.b5 x.b6 x.b7
  simp only [burstOfWords, burstWordA, burstWordB, ha0, ha1, ha2, ha3, hb0, hb1, hb2, hb3]

/-! The word of a field is the operand with the bits outside the field cleared. -/

theorem wordOfNat_toNat (w : Word) : wordOfNat w.toNat = w := BitVec.ofNat_toNat ..

theorem wordOfInt_toInt (w : Word) : wordOfInt w.toInt = w := BitVec.ofInt_toInt

theorem wordOfNat_mod_two_pow (w : Word) (n : Nat) :
    wordOfNat (w.toNat % 2 ^ n) = w &&& wordOfNat (2 ^ n - 1) := by
  rw [wordOfNat, ← Nat.and_two_pow_sub_one_eq_mod, BitVec.ofNat_and]
  exact congrArg (· &&& _) (wordOfNat_toNat w)

theorem wordOfNat_field20 (w : Word) : wordOfNat (field20 w) = w &&& 0xFFFFF#32 := by
  rw [field20_eq]
  exact wordOfNat_mod_two_pow w 20

theorem wordOfNat_field16 (w : Word) : wordOfNat (field16 w) = w &&& 0xFFFF#32 := by
  rw [field16_eq]
  exact wordOfNat_mod_two_pow w 16

theorem wordOfByte_field8 (w : Word) : wordOfByte (field8 w) = w &&& 0xFF#32 := by
  have hbyte : wordOfByte (field8 w) = wordOfNat (w.toNat % 2 ^ 8) := by
    rw [field8_eq]
    apply BitVec.eq_of_toNat_eq
    simp [wordOfByte, wordOfNat]
  rw [hbyte]
  exact wordOfNat_mod_two_pow w 8

theorem wordOfBytes_extract (w : Word) :
    wordOfBytes (w.extractLsb' 24 8) (w.extractLsb' 16 8) (w.extractLsb' 8 8)
      (w.extractLsb' 0 8) = w := by
  ext i hi
  simp only [wordOfBytes, BitVec.getElem_or, BitVec.getElem_shiftLeft, BitVec.getElem_setWidth,
    BitVec.getLsbD_extractLsb']
  grind

theorem burstWordA_burstOfWords (a b : Word) : burstWordA (burstOfWords a b) = a :=
  wordOfBytes_extract a

theorem burstWordB_burstOfWords (a b : Word) : burstWordB (burstOfWords a b) = b :=
  wordOfBytes_extract b

/-! A decoded operand is a value of its field. -/

theorem fitsU_toNat (w : Word) : fitsU 32 w.toNat = true := decide_eq_true w.isLt

theorem fitsU_field20 (w : Word) : fitsU 20 (field20 w) = true :=
  decide_eq_true (BitVec.isLt _)

theorem fitsU_field16 (w : Word) : fitsU 16 (field16 w) = true :=
  decide_eq_true (BitVec.isLt _)

theorem fitsS32_toInt (w : Word) : fitsS32 w.toInt = true := by
  simp only [fitsS32, Bool.and_eq_true, decide_eq_true_eq]
  exact ⟨BitVec.le_toInt w, BitVec.toInt_lt⟩

/-! ### Decoder and encoder -/

theorem maskCommand_eq {cmd : Command} {op : Byte} {ma mb mc : Word} (hop : cmd.opcode = op)
    (hmask : operandMask op = (ma, mb, mc)) :
    maskCommand cmd = ⟨op, cmd.a &&& ma, cmd.b &&& mb, cmd.c &&& mc⟩ := by
  rw [maskCommand, hop, hmask]

theorem word_and_zero (w : Word) : w &&& 0 = 0 := BitVec.and_zero

/-- Everything the decoder can do. Row by row, a decoded operand is a value of its field, and its word
is the command's without the bits outside the field; an opcode without a row is rejected. -/
theorem decode_cases (cmd : Command) :
    (∃ i, decode cmd = .ok i ∧ i.wf = true ∧ encode i = maskCommand cmd) ∨
    (cmd.opcode ∉ opcodes ∧ decode cmd = .error (.illegalOpcode cmd.opcode)) := by
  unfold decode
  split
  case h_25 =>
    refine .inr ⟨?_, rfl⟩
    simp only [opcodes, List.mem_cons, List.not_mem_nil, or_false, not_or]
    and_intros <;> assumption
  all_goals
    rename_i hop
    refine .inl ⟨_, rfl, ?_, ?_⟩
    · simp only [Instr.wf, fitsU_toNat, fitsU_field20, fitsU_field16, fitsS32_toInt, Bool.and_self]
    · rw [maskCommand_eq hop rfl]
      simp only [encode, opcodeOf, operandsOf, wordOfNat_toNat, wordOfInt_toInt, wordOfNat_field20,
        wordOfNat_field16, wordOfByte_field8, burstWordA_burstOfWords, burstWordB_burstOfWords,
        BitVec.and_allOnes, word_and_zero]

/-- Settles O2: what is decoded is the well-formed instruction of the command's row, encoded as the
masked command. -/
theorem encodeDecodedIsMasked : Obligations.EncodeDecodedIsMasked := by
  intro cmd i hdecode
  obtain ⟨j, hok, hj⟩ | ⟨-, herror⟩ := decode_cases cmd
  · obtain rfl := Except.ok.inj (hdecode.symm.trans hok)
    exact hj
  · cases hdecode.symm.trans herror

theorem opcodeOf_mem_opcodes (i : Instr) : opcodeOf i ∈ opcodes := by
  cases i <;> simp [opcodeOf, opcodes]

theorem opcodeOf_of_encode_eq {i : Instr} {cmd : Command} (h : encode i = maskCommand cmd) :
    opcodeOf i = cmd.opcode :=
  congrArg Command.opcode h

theorem decode_of_mem {cmd : Command} (h : cmd.opcode ∈ opcodes) :
    ∃ i, decode cmd = .ok i ∧ opcodeOf i = cmd.opcode := by
  obtain ⟨i, hok, -, hmask⟩ | ⟨hillegal, -⟩ := decode_cases cmd
  · exact ⟨i, hok, opcodeOf_of_encode_eq hmask⟩
  · exact absurd h hillegal

theorem decode_of_not_mem {cmd : Command} (h : cmd.opcode ∉ opcodes) :
    decode cmd = .error (.illegalOpcode cmd.opcode) := by
  obtain ⟨i, -, -, hmask⟩ | ⟨-, herror⟩ := decode_cases cmd
  · exact absurd (opcodeOf_of_encode_eq hmask ▸ opcodeOf_mem_opcodes i) h
  · exact herror

/-- Settles O4: the decoder's rows are the 24 opcodes. -/
theorem decodingIsTotal : Obligations.DecodingIsTotal :=
  ⟨fun _ => decode_of_mem, fun _ => decode_of_not_mem⟩

/-- Settles O1: row by row, each operand is read back from its field. -/
theorem decodeEncodeRoundTrip : Obligations.DecodeEncodeRoundTrip := by
  intro i hwf
  cases i <;> simp only [Instr.wf, Bool.and_eq_true] at hwf
  case loadCalib | readAll | readBusy | readMode | readChipId | softReset => rfl
  case compAll | parseBurst =>
    simp only [decode, encode, opcodeOf, operandsOf, burstOfWords_burstWords]
  case decMode | decBusy => simp only [decode, encode, opcodeOf, operandsOf, field8_wordOfByte]
  all_goals
    simp only [decode, encode, opcodeOf, operandsOf, toNat_wordOfNat, field20_wordOfNat,
      field16_wordOfNat, toInt_wordOfInt, hwf]

/-- What a command decodes to is decoded from its masked command too, which is the encoding of that
instruction; and a mask leaves the opcode, so an illegal one stays illegal. -/
theorem decode_maskCommand (cmd : Command) : decode (maskCommand cmd) = decode cmd := by
  obtain ⟨i, hok, hwf, hmask⟩ | ⟨hillegal, herror⟩ := decode_cases cmd
  · rw [← hmask, hok, decodeEncodeRoundTrip i hwf]
  · rw [herror]
    exact decode_of_not_mem (cmd := maskCommand cmd) hillegal

/-- Settles O3: both commands decode as their common masked command. -/
theorem unusedOperandBitsIgnored : Obligations.UnusedOperandBitsIgnored := by
  intro cmd cmd' hmask
  rw [← decode_maskCommand cmd, hmask, decode_maskCommand cmd']

/-- The burst bytes as numbers: big-endian in each word (R81). -/
theorem burstOfWords_eq (a b : Word) :
    burstOfWords a b =
      { b0 := BitVec.ofNat 8 (a.toNat / 2 ^ 24), b1 := BitVec.ofNat 8 (a.toNat / 2 ^ 16),
        b2 := BitVec.ofNat 8 (a.toNat / 2 ^ 8), b3 := BitVec.ofNat 8 a.toNat,
        b4 := BitVec.ofNat 8 (b.toNat / 2 ^ 24), b5 := BitVec.ofNat 8 (b.toNat / 2 ^ 16),
        b6 := BitVec.ofNat 8 (b.toNat / 2 ^ 8), b7 := BitVec.ofNat 8 b.toNat } := by
  simp only [burstOfWords, BitVec.extractLsb', Nat.shiftRight_eq_div_pow, pow_zero, Nat.div_one]

/-- Settles O5: the decoder's rows, with each field as a number. -/
theorem opcodeRows : Obligations.OpcodeRows := by
  intro a b c
  rw [← burstOfWords_eq, ← field20_eq, ← field16_eq, ← field8_eq]
  and_intros <;> rfl

/-- Settles O6: the decoder run on each command. -/
theorem specCommandsDecode : Obligations.SpecCommandsDecode := by
  and_intros <;> rfl

/-- Settles O8: the ranges and the count by checking the 256 opcodes; the step reports the error the
decoder gives. -/
theorem illegalOpcodeReported : Obligations.IllegalOpcodeReported := by
  refine ⟨by decide, by decide +kernel, fun s cmd rest hin hillegal => ?_⟩
  rw [step_command hin, perform_of_error (decode_of_not_mem hillegal)]
  rfl

/-! ### The result and the frame of a command -/

/-- Settles O48: a delivered reply adds its pair and keeps the rest; off the bus it keeps the sensor
side too. -/
theorem oneObservationPerCommand : Obligations.OneObservationPerCommand := by
  intro i s t hexec
  obtain ⟨-, rfl⟩ := exec_next hexec
  have hkeeps := replyOf_keeps i s
  exact ⟨⟨_, hkeeps.observed_delivered⟩, hkeeps.params, hkeeps.inputs, hkeeps.hung, hkeeps.fresh,
    replyOf_notBus i s⟩

/-! ### The expansion of CONFIGURE -/

theorem writeImage_taken {s : State} {addr : RegAddr} {v : Byte} {reads : List ReadAnswer}
    {writes : List WriteAnswer} (h : s.oracle = .draws reads (.ok :: writes)) :
    writeImage s addr v = ⟨{ s with oracle := .draws reads writes }, { byte := v },
      [.write s.params.devAddr addr v .ok]⟩ := by
  rw [writeImage, busWrite_ok (drawWrite_listed h)]
  rfl

/-- What a write command shows when its write is taken. -/
def takenWrite (dev : Nat) (w : RegAddr × Byte) : Observation :=
  ⟨{ byte := w.2 }, [.write dev w.1 w.2 .ok]⟩

/-- The state after the writes `ws`, each taken, with `left` the answers still to come. -/
def takeWrites (s : State) (ws : List (RegAddr × Byte)) (left : Oracle) : State :=
  { s with oracle := left, observed := s.observed ++ ws.map (takenWrite s.params.devAddr) }

theorem takeWrites_cons (s : State) (w : RegAddr × Byte) (ws : List (RegAddr × Byte))
    (left left' : Oracle) :
    takeWrites (takeWrites s [w] left) ws left' = takeWrites s (w :: ws) left' := by
  simp [takeWrites]

/-- A program's first command, a write the transport takes, is performed by one step. -/
theorem step_write_taken {s : State} {i : Instr} {w : RegAddr × Byte} {prog : List Instr}
    {reads : List ReadAnswer} {writes : List WriteAnswer} (hwf : i.wf = true)
    (hw : registerWritten i = some w) (hhung : s.hung = false)
    (horacle : s.oracle = .draws reads (.ok :: writes)) :
    step (withProgram s (i :: prog)) =
      .next (withProgram (takeWrites s [w] (.draws reads writes)) prog) := by
  have hstep : step (withProgram s (i :: prog)) = perform (encode i) (withProgram s prog) :=
    step_command rfl
  rw [hstep, perform_answering (s := withProgram s prog) hhung,
    performReply_of_decode (decodeEncodeRoundTrip i hwf), replyOf_registerWritten hw,
    writeImage_taken (s := withProgram s prog) horacle]
  rfl

/-- A program of write commands, all taken by the transport, leaves its writes in their order. -/
theorem run_writes_taken {prog : List Instr} {ws : List (RegAddr × Byte)} {s : State}
    {reads : List ReadAnswer} {writes : List WriteAnswer} (hwf : ∀ i ∈ prog, i.wf = true)
    (hws : prog.map registerWritten = ws.map some) (hhung : s.hung = false)
    (horacle : s.oracle = .draws reads (List.replicate prog.length .ok ++ writes)) :
    Host.Core.run core prog.length (withProgram s prog) =
      .next (takeWrites s ws (.draws reads writes)) := by
  induction prog generalizing s ws with
  | nil =>
    obtain rfl : ws = [] := by simpa using hws
    have hsame : takeWrites s [] (.draws reads writes) = s := by
      obtain ⟨⟩ := s
      simpa [takeWrites] using horacle.symm
    rw [hsame]
    rfl
  | cons i prog ih =>
    cases ws with
    | nil => cases hws
    | cons w ws =>
      obtain ⟨hw, hws⟩ := List.cons.inj hws
      obtain ⟨hi, hprog⟩ := List.forall_mem_cons.mp hwf
      have hstep : core.step (withProgram s (i :: prog)) = .next _ :=
        step_write_taken hi hw hhung horacle
      rw [← takeWrites_cons]
      exact (coreRun_succ hstep _).trans (ih hprog hws hhung rfl)

theorem configure_registerWritten (tos pos hos mode sb flt : Nat) :
    (configure tos pos hos mode sb flt).map registerWritten =
      [(0xF4#8, 0x00#8), (0xF5#8, configImage sb flt), (0xF2#8, ctrlHumImage hos),
        (0xF4#8, ctrlMeasImage tos pos mode)].map some := rfl

/-- Settles O60: the four commands of the expansion are writes of these images. -/
theorem configureSequence : Obligations.ConfigureSequence := by
  intro s tos pos hos mode sb flt reads writes hbounds hhung horacle
  refine run_writes_taken (prog := configure tos pos hos mode sb flt) ?_
    (configure_registerWritten ..) hhung horacle
  simp only [List.forall_mem_cons] at hbounds
  obtain ⟨htos, hpos, hhos, hmode, hsb, hflt, -⟩ := hbounds
  simp only [configure, List.forall_mem_cons, Instr.wf, fitsU, Bool.and_eq_true, decide_eq_true_eq]
  exact ⟨by decide, ⟨hsb, hflt⟩, hhos, ⟨⟨htos, hpos⟩, hmode⟩, nofun⟩

/-! ### The bytes of the coefficients -/

/-- The number `v` of an `n`-bit field read as two's complement: `sext_n` (R96). -/
def signExtended (n : Nat) (v : Int) : Int := if v < 2 ^ (n - 1) then v else v - 2 ^ n

theorem toInt_eq_signExtended {n : Nat} (x : BitVec (n + 1)) :
    x.toInt = signExtended (n + 1) x.toNat := by
  have hcast : (2 : Int) ^ n = (2 ^ n : Nat) := by push_cast; rfl
  rw [BitVec.toInt_eq_toNat_cond, signExtended, Nat.add_sub_cancel, pow_succ, pow_succ,
    hcast]
  split_ifs <;> omega

/-- Bits packed above `k` low bits. -/
theorem toNat_shiftLeft_or {w k : Nat} {hi lo : BitVec w} (hlo : lo.toNat < 2 ^ k)
    (hhi : hi.toNat * 2 ^ k < 2 ^ w) : (hi <<< k ||| lo).toNat = 2 ^ k * hi.toNat + lo.toNat := by
  rw [BitVec.toNat_or, BitVec.toNat_shiftLeft, Nat.shiftLeft_eq, Nat.mod_eq_of_lt hhi,
    ← Nat.shiftLeft_eq, ← Nat.shiftLeft_add_eq_or_of_lt hlo, Nat.shiftLeft_eq, mul_comm]

theorem le16_toNat (lo hi : Byte) : (le16 lo hi).toNat = lo.toNat + 256 * hi.toNat := by
  have hl : (lo.setWidth 16).toNat = lo.toNat := BitVec.toNat_setWidth_of_le (by decide)
  have hh : (hi.setWidth 16).toNat = hi.toNat := BitVec.toNat_setWidth_of_le (by decide)
  rw [le16, BitVec.or_comm, toNat_shiftLeft_or (by omega) (by omega), hl, hh]
  omega

theorem h4Bits_toNat (e3 e4 : Byte) : (h4Bits e3 e4).toNat = 16 * e3.toNat + e4.toNat % 16 := by
  have hl : ((e4 &&& 0x0F#8).setWidth 12).toNat = e4.toNat % 16 := by
    rw [BitVec.toNat_setWidth_of_le (by decide), BitVec.toNat_and]
    exact Nat.and_two_pow_sub_one_eq_mod _ 4
  have hh : (e3.setWidth 12).toNat = e3.toNat := BitVec.toNat_setWidth_of_le (by decide)
  rw [h4Bits, toNat_shiftLeft_or (by omega) (by omega), hl, hh]
  rfl

theorem h5Bits_toNat (e5 e4 : Byte) : (h5Bits e5 e4).toNat = 16 * e5.toNat + e4.toNat / 16 := by
  have hl : ((e4 >>> 4).setWidth 12).toNat = e4.toNat / 16 := by
    rw [BitVec.toNat_setWidth_of_le (by decide), BitVec.toNat_ushiftRight]
    exact Nat.shiftRight_eq_div_pow _ 4
  have hh : (e5.setWidth 12).toNat = e5.toNat := BitVec.toNat_setWidth_of_le (by decide)
  rw [h5Bits, toNat_shiftLeft_or (by omega) (by omega), hl, hh]
  rfl

/-- The number of two bytes from byte `i` on, the low one first (R96). -/
def littleEndian (span : List Byte) (i : Nat) : Int :=
  (span.getD i 0).toNat + 256 * (span.getD (i + 1) 0).toNat

theorem coefU16_eq (span : List Byte) (i : Nat) : coefU16 span i = littleEndian span i := by
  rw [coefU16, le16_toNat]
  push_cast
  rfl

theorem coefS16_eq (span : List Byte) (i : Nat) :
    coefS16 span i = signExtended 16 (littleEndian span i) := by
  rw [coefS16, toInt_eq_signExtended, ← coefU16_eq]
  rfl

theorem coef12_eq (signExtend : Bool) (x : BitVec 12) :
    coef12 signExtend x = if signExtend then signExtended 12 x.toNat else x.toNat := by
  rw [coef12, toInt_eq_signExtended]

/-- Settles O38: each coefficient by its form, in the order of the index. -/
theorem coefficientAssembly : Obligations.CoefficientAssembly := by
  intro se a h e
  simp only [coefList, assemble, coefU16_eq, coefS16_eq, coef12_eq, h4Bits_toNat,
    h5Bits_toNat, toInt_eq_signExtended]
  push_cast
  rfl

/-! ### What a command may show -/

/-! The humidity stage ends in its range or with an overflow. -/

/-- The stage ends with an overflow or with a value that satisfies `P`. -/
def OverflowOr (P : Int → Prop) (stage : Stage) : Prop :=
  stage = .error .arithmeticOverflow ∨ ∃ v, stage = .ok v ∧ P v

/-- A check, then the rest of a stage. -/
theorem OverflowOr.chk_bind {P : Int → Prop} {policy : OverflowPolicy} {w : Nat} {v : Int}
    {k : Int → Stage} (hk : ∀ v, OverflowOr P (k v)) : OverflowOr P (chk policy w v >>= k) := by
  cases policy with
  | unbounded => exact hk v
  | fault =>
    rw [chk_fault_bind]
    split
    · exact hk v
    · exact .inl rfl

/-- The range of `h_q10` (R84). -/
def HumidityInRange (h : Int) : Prop := 0 ≤ h ∧ h ≤ 102400

theorem clampHumidity_shifted (v : Int) : HumidityInRange (asr (clampHumidity v) 12) := by
  rw [asr_eq_div, clampHumidity]
  constructor <;> omega

theorem humidity_overflowOr (policy : OverflowPolicy) (c : Calib) (r t : Int) :
    OverflowOr HumidityInRange (humidity policy c r t) := by
  unfold humidity
  repeat refine .chk_bind fun _ => ?_
  exact .inr ⟨_, rfl, clampHumidity_shifted _⟩

theorem humidity_ok_inRange {policy : OverflowPolicy} {c : Calib} {r t h : Int}
    (hok : humidity policy c r t = .ok h) : HumidityInRange h := by
  obtain herror | ⟨v, hv, hrange⟩ := humidity_overflowOr policy c r t
  · cases herror.symm.trans hok
  · cases hv.symm.trans hok
    exact hrange

theorem humidity_toNat_le {h : Int} (hrange : HumidityInRange h) :
    (BitVec.ofInt 32 h).toNat ≤ 102400 := by
  obtain ⟨hlow, hhigh⟩ := hrange
  rw [BitVec.toNat_ofInt]
  omega

/-! Records. -/

theorem legalResult_error (e : Status) : LegalResult { status := statusCode e } :=
  ⟨by cases e <;> decide, fun _ => rfl, .inl rfl, .inl rfl, Nat.zero_le _, Nat.zero_le _⟩

/-- The pressure part of `LegalResult` (R84). -/
def LegalPressure (r : Result) : Prop :=
  r.pStatus = 0#8 ∨ ((r.pStatus = 3#8 ∨ r.pStatus = 5#8) ∧ r.pQ8 = 0#64 ∧ r.pF32 = 0#32)

/-- The humidity part of `LegalResult` (R84). -/
def LegalHumidity (r : Result) : Prop :=
  (r.hStatus = 0#8 ∨ (r.hStatus = 5#8 ∧ r.hQ10 = 0#32 ∧ r.hF32 = 0#32)) ∧ r.hQ10.toNat ≤ 102400

theorem legalPressure_pressureInto (stage : Stage) {res : Result} (hq8 : res.pQ8 = 0#64)
    (hf32 : res.pF32 = 0#32) : LegalPressure (pressureInto stage res) := by
  match stage with
  | .ok _ => exact .inl rfl
  | .error .invalidPressureReading => exact .inr ⟨.inl rfl, hq8, hf32⟩
  | .error .arithmeticOverflow => exact .inr ⟨.inr rfl, hq8, hf32⟩

theorem legalHumidity_humidityInto {stage : Stage} {res : Result}
    (hstage : OverflowOr HumidityInRange stage) (hq10 : res.hQ10 = 0#32) (hf32 : res.hF32 = 0#32) :
    LegalHumidity (humidityInto stage res) := by
  obtain rfl | ⟨h, rfl, hrange⟩ := hstage
  · exact ⟨.inr ⟨rfl, hq10, hf32⟩, (congrArg BitVec.toNat hq10).le.trans (Nat.zero_le _)⟩
  · exact ⟨.inl rfl, humidity_toNat_le hrange⟩

section Fields

variable {stage : Stage} {res : Result}

@[simp] theorem pressureInto_hQ10 : (pressureInto stage res).hQ10 = res.hQ10 := by
  cases stage <;> rfl
@[simp] theorem pressureInto_hF32 : (pressureInto stage res).hF32 = res.hF32 := by
  cases stage <;> rfl
@[simp] theorem pressureInto_mode : (pressureInto stage res).mode = res.mode := by
  cases stage <;> rfl
@[simp] theorem humidityInto_mode : (humidityInto stage res).mode = res.mode := by
  cases stage <;> rfl

end Fields

theorem legalPressure_humidityInto {stage : Stage} {res : Result} (h : LegalPressure res) :
    LegalPressure (humidityInto stage res) := by
  cases stage <;> exact h

section LegalRecord

variable {r : Result} (hstatus : r.status = 0#8)
include hstatus

theorem legalResult_of_stages (hp : LegalPressure r) (hh : LegalHumidity r)
    (hm : r.mode.toNat ≤ 2) : LegalResult r :=
  ⟨by simp [hstatus], fun h => absurd hstatus h, hp, hh.1, hh.2, hm⟩

/-- A record whose stages are OK or did not run. -/
theorem legalResult_ok (hp : r.pStatus = 0#8) (hh : r.hStatus = 0#8) (hq : r.hQ10.toNat ≤ 102400)
    (hm : r.mode.toNat ≤ 2) : LegalResult r :=
  legalResult_of_stages hstatus (.inl hp) ⟨.inl hh, hq⟩ hm

/-- A record without a humidity and without a mode. -/
theorem legalResult_plain (hp : r.pStatus = 0#8) (hh : r.hStatus = 0#8) (hq : r.hQ10 = 0#32)
    (hm : r.mode = 0#8) : LegalResult r :=
  legalResult_ok hstatus hp hh (by simp [hq]) (by simp [hm])

end LegalRecord

/-! Replies. -/

/-- What the reply shows is legal at the device address `dev`. -/
def LegalReply (dev : Nat) (r : Reply) : Prop := LegalObservation dev r.shown

namespace LegalReply

variable {dev : Nat} {s : State} {r : Reply}

theorem done {res : Result} (h : LegalResult { res with status := 0#8 }) :
    LegalReply dev (done s res) :=
  ⟨h, ⟨⟨nofun, nofun⟩, nofun⟩, nofun⟩

/-- A command that ends OK without a humidity and without a mode. -/
theorem plain {res : Result} (hp : res.pStatus = 0#8) (hh : res.hStatus = 0#8)
    (hq : res.hQ10 = 0#32) (hm : res.mode = 0#8) : LegalReply dev (Machine.done s res) :=
  done (legalResult_plain rfl hp hh hq hm)

theorem raise {e : Status} (h : e ≠ .busError) : LegalReply dev (raise s e) := by
  refine ⟨legalResult_error e, ⟨⟨fun h1 => ?_, nofun⟩, nofun⟩, nofun⟩
  have hcode : statusCode e = 1#8 := h1
  cases e
  case busError => exact absurd rfl h
  all_goals exact absurd hcode (by decide)

theorem traced {ev : BusEvent} (hev : LegalEvent dev ev) (hok : eventFailed ev = false)
    (h : LegalReply dev r) : LegalReply dev (traced ev r) := by
  obtain ⟨hres, ⟨hiff, hpast⟩, hevents⟩ := h
  refine ⟨hres, ⟨?_, ?_⟩, ?_⟩
  · simpa [Reply.shown, hok] using hiff
  · show ∀ e ∈ (ev :: r.trace).dropLast, eventFailed e = false
    cases htr : r.trace with
    | nil => exact nofun
    | cons ev' rest =>
      rw [List.dropLast_cons_cons, List.forall_mem_cons, ← htr]
      exact ⟨hok, hpast⟩
  · exact List.forall_mem_cons.mpr ⟨hev, hevents⟩

theorem failed {ev : BusEvent} (hev : LegalEvent dev ev) (hfail : eventFailed ev = true) :
    LegalReply dev (Machine.traced ev (Machine.raise s .busError)) :=
  ⟨legalResult_error .busError,
    ⟨⟨fun _ => ⟨ev, List.mem_singleton.mpr rfl, hfail⟩, fun _ => rfl⟩, nofun⟩,
    List.forall_mem_singleton.mpr hev⟩

theorem stageReply {stage : Stage} {f : Int → Result → Result}
    (hf : ∀ v, stage = .ok v → LegalResult { f v {} with status := 0#8 }) :
    LegalReply dev (stageReply s stage f) := by
  cases stage with
  | error e => exact raise (by cases e <;> decide)
  | ok v => exact done (hf v rfl)

theorem decodeModeInto {image : Byte} {res : Result} (hp : res.pStatus = 0#8)
    (hh : res.hStatus = 0#8) (hq : res.hQ10 = 0#32) :
    LegalReply dev (decodeModeInto s image res) := by
  obtain ⟨m, _, hm, -, h⟩ := decodeModeInto_spec s image res
  rw [h]
  refine done (legalResult_ok rfl hp hh ?_ ?_)
  · simp [hq]
  · show (codeByte m).toNat ≤ 2
    rw [codeByte, BitVec.toNat_ofNat]
    omega

theorem pipeline (s : State) (x : Burst) (offset : Word) :
    LegalReply dev (pipeline s x offset) := by
  obtain ⟨e, -, h⟩ | ⟨t, -, h⟩ := pipeline_cases s x offset <;> rw [h]
  · exact raise (by cases e <;> decide)
  · refine done (legalResult_of_stages rfl ?_ ?_ ?_)
    · exact legalPressure_humidityInto (legalPressure_pressureInto _ rfl rfl)
    · exact legalHumidity_humidityInto (humidity_overflowOr ..) pressureInto_hQ10 pressureInto_hF32
    · simp [withTemperature, withRaw]

theorem busRead {addr : RegAddr} {n : Nat} {k : State → List Byte → Reply}
    (hdev : s.params.devAddr = dev) (hlegal : (addr, n) ∈ legalReads)
    (hk : ∀ s' bs, s'.params.devAddr = dev → LegalReply dev (k s' bs)) :
    LegalReply dev (busRead s addr n k) := by
  obtain ⟨answer, s', hd, ⟨hnone, h⟩ | ⟨bs, rfl, hlen, h⟩⟩ := busRead_cases s addr n k <;> rw [h]
  · exact failed ⟨hdev, hlegal⟩ (by rw [eventFailed, hnone]; rfl)
  · have hparams : s'.params = s.params := by simpa [hd] using drawRead_params s addr n
    refine traced ⟨hdev, hlegal⟩ ?_ (hk s' bs (by rw [hparams, hdev]))
    rw [eventFailed, acceptBytes_of_length hlen]
    rfl

theorem writeImage {addr : RegAddr} {v : Byte} (hdev : s.params.devAddr = dev)
    (hlegal : LegalWrite addr v) : LegalReply dev (writeImage s addr v) := by
  obtain ⟨answer, s', -, h⟩ := busWrite_cases s addr v fun s => Machine.done s { byte := v }
  rw [Machine.writeImage, h]
  cases answer with
  | fail => exact failed ⟨hdev, hlegal⟩ rfl
  | ok => exact traced ⟨hdev, hlegal⟩ rfl (plain rfl rfl rfl rfl)

/-- The calibration test before a body. -/
theorem ite {c : Bool} {r' : Reply} (h : LegalReply dev r) (h' : LegalReply dev r') :
    LegalReply dev (if c then r else r') := by
  cases c <;> assumption

theorem loadSpans (hdev : s.params.devAddr = dev) : LegalReply dev (loadSpans s) :=
  .busRead hdev (by decide) fun _ _ hdev => .busRead hdev (by decide) fun _ _ hdev =>
    .busRead hdev (by decide) fun _ _ _ => .plain rfl rfl rfl rfl

end LegalReply

/-! Writes: the images the encoders can produce (R89 to R91, R101). -/

theorem osCode_le (v : Nat) : osCode v ≤ 5 := Nat.min_le_right ..

theorem fltCode_le (v : Nat) : fltCode v ≤ 4 := Nat.min_le_right ..

theorem sbCode_le (v : Nat) : sbCode v ≤ 7 := Nat.min_le_right ..

theorem modeCode_mem (v : Nat) : modeCode v ∈ [0, 1, 3] := by
  have hclamp : clampOrd v modeMaxOrd ≤ 2 := Nat.min_le_right ..
  unfold modeCode
  interval_cases clampOrd v modeMaxOrd <;> decide

theorem ctrlHumImage_le (osH : Nat) : (ctrlHumImage osH).toNat ≤ 5 := by
  have := osCode_le osH
  rw [ctrlHumImage, codeByte, BitVec.toNat_ofNat]
  omega

/-- Code by code: no code reaches into the next field. -/
theorem packed_ctrlMeas_fields : ∀ a ≤ 5, ∀ b ≤ 5, ∀ m ∈ [0, 1, 3],
    let v : Byte := (codeByte a <<< 5) ||| (codeByte b <<< 2) ||| codeByte m
    (v >>> 5).toNat ≤ 5 ∧ ((v >>> 2) &&& 7#8).toNat ≤ 5 ∧ v &&& 3#8 ≠ 2#8 := by
  decide

theorem packed_config_fields : ∀ a ≤ 7, ∀ b ≤ 4,
    let v : Byte := (codeByte a <<< 5) ||| (codeByte b <<< 2)
    ((v >>> 2) &&& 7#8).toNat ≤ 4 ∧ v &&& 3#8 = 0#8 := by
  decide

theorem ctrlMeasImage_fields (osT osP mode : Nat) :
    (ctrlMeasImage osT osP mode >>> 5).toNat ≤ 5 ∧
      ((ctrlMeasImage osT osP mode >>> 2) &&& 7#8).toNat ≤ 5 ∧
      ctrlMeasImage osT osP mode &&& 3#8 ≠ 2#8 :=
  packed_ctrlMeas_fields _ (osCode_le osT) _ (osCode_le osP) _ (modeCode_mem mode)

theorem configImage_fields (standby filter : Nat) :
    ((configImage standby filter >>> 2) &&& 7#8).toNat ≤ 4 ∧
      configImage standby filter &&& 3#8 = 0#8 :=
  packed_config_fields _ (sbCode_le standby) _ (fltCode_le filter)

theorem legalWrite_of_registerWritten {i : Instr} {addr : RegAddr} {v : Byte}
    (h : registerWritten i = some (addr, v)) : LegalWrite addr v := by
  cases i
  case writeCtrlHum osH =>
    cases h
    exact .inl ⟨rfl, ctrlHumImage_le osH⟩
  case writeCtrlMeas osT osP mode =>
    cases h
    exact .inr (.inl ⟨rfl, ctrlMeasImage_fields ..⟩)
  case writeConfig standby filter =>
    cases h
    exact .inr (.inr (.inl ⟨rfl, configImage_fields ..⟩))
  case softReset =>
    cases h
    exact .inr (.inr (.inr ⟨rfl, rfl⟩))
  all_goals exact absurd h nofun

/-- Whatever a command does in whatever state, what it shows is legal. -/
theorem replyOf_legal (i : Instr) (s : State) : LegalReply s.params.devAddr (replyOf i s) := by
  cases hw : registerWritten i with
  | some w =>
    rw [replyOf_registerWritten hw]
    exact .writeImage rfl (legalWrite_of_registerWritten hw)
  | none =>
    cases i
    case loadCalib => exact .ite (.raise nofun) (.loadSpans rfl)
    case compT | compP =>
      exact .ite (.stageReply fun _ _ => legalResult_plain rfl rfl rfl rfl rfl) (.raise nofun)
    case compH =>
      exact .ite (.stageReply fun h hok => legalResult_ok rfl rfl rfl
        (humidity_toNat_le (humidity_ok_inRange hok)) (Nat.zero_le _)) (.raise nofun)
    case compAll => exact .ite (.pipeline ..) (.raise nofun)
    case readAll =>
      exact .ite (.busRead rfl (by decide) fun _ _ _ => .pipeline ..) (.raise nofun)
    case readBusy | readChipId =>
      exact .busRead rfl (by decide) fun _ _ _ => .plain rfl rfl rfl rfl
    case readMode => exact .busRead rfl (by decide) fun _ _ _ => .decodeModeInto rfl rfl rfl
    case writeCtrlHum | writeCtrlMeas | writeConfig | softReset => exact absurd hw nofun
    case decMode => exact .decodeModeInto rfl rfl rfl
    all_goals exact .plain rfl rfl rfl rfl

theorem performReply_legal (cmd : Command) (s : State) :
    LegalReply s.params.devAddr (performReply cmd s) := by
  cases h : decode cmd with
  | ok i => rw [performReply_of_decode h]; exact replyOf_legal i s
  | error e => rw [performReply_of_error h]; exact .raise nofun

/-- Settles O56: a block reset empties the session's pairs, and a command adds a legal one at the same
device address. -/
theorem observationsLegalInvariant : Obligations.ObservationsLegalInvariant := by
  intro s t hs hstep
  obtain ⟨-, rfl⟩ | ⟨rest, -, rfl⟩ | ⟨cmd, rest, -, hperform⟩ := step_cases hstep
  · exact hs
  · exact nofun
  · have hkeeps := performReply_keeps cmd { s with inputs := rest }
    rw [perform_next hperform, ObservationsLegal, hkeeps.observed_delivered, observe_params,
      hkeeps.params, List.forall_mem_append, List.forall_mem_singleton]
    exact ⟨hs, performReply_legal cmd _⟩

end Sys2Proof.Machine

/-! PROOFS. The statements of 40_calibration.md: the three reads of LOAD_CALIB (R120, R121), the length
check (R122), the coefficients assembled (R123), the atomic commit (R124) and the lock (R125). -/

namespace Sys2Proof.Machine

/-! ### The length check and the coefficients -/

/-- Settles O40: `Fail` gives no bytes, and `Ok` gives its own bytes if their number is right. -/
theorem replyLengthChecked : Obligations.ReplyLengthChecked := by
  intro n answer bs
  cases answer with
  | fail => exact ⟨nofun, fun ⟨h, _⟩ => nomatch h⟩
  | ok bytes =>
    rw [acceptBytes, Option.ite_none_right_eq_some, Option.some_inj, ReadAnswer.ok.injEq, and_comm]
    exact and_congr_right fun hbytes => by rw [hbytes]

/-- Settles O41: the ranges hold whatever bytes are assembled. -/
theorem assembledStoreInRange : Obligations.AssembledStoreInRange := assemble_inRange

/-! ### LOAD_CALIB -/

theorem exec_loadCalib_locked {s : State} (h : s.calibValid = true) :
    exec .loadCalib s = deliver (raise s .calibrationLocked) := if_pos h

/-- An unlocked LOAD_CALIB on an answering transport is its three reads and the commit behind them
(R120, R121). -/
theorem exec_loadCalib_unlocked {s : State} (hvalid : s.calibValid = false) (hhung : s.hung = false) :
    exec .loadCalib s = deliver (busRead s 0x88#8 24 fun s a => busRead s 0xA1#8 1 fun s h =>
      busRead s 0xE1#8 7 fun s e => done (commitCalib s a h e) {}) := by
  rw [exec_eq, stuck, hhung, replyOf_loadCalib_unlocked hvalid]
  rfl

theorem params_of_drawRead {s s' : State} {addr : RegAddr} {n : Nat} {answer : ReadAnswer}
    (h : drawRead s addr n = (answer, s')) : s'.params = s.params := by
  simpa [h] using drawRead_params s addr n

/-- Settles O39: each read in turn fails and ends the command, or hands its bytes to the next one. All
three use the parameters of the state before the command. -/
theorem loadCalibRule : Obligations.LoadCalibRule := by
  refine ⟨fun _ _ _ => rfl, fun s hvalid => exec_loadCalib_locked hvalid, ?_⟩
  intro s s1 s2 s3 ra rh re hvalid hhung hd1 hd2 hd3
  have hp1 : s1.params = s.params := params_of_drawRead hd1
  have hp2 : s2.params = s.params := (params_of_drawRead hd2).trans hp1
  have hp3 : s3.params = s.params := (params_of_drawRead hd3).trans hp2
  rw [exec_loadCalib_unlocked hvalid hhung]
  refine ⟨fun ha => ?_, fun a ha hh => ?_, fun a h ha hh he => ?_, fun a h e ha hh he => ?_⟩
  · rw [busRead_failed hd1 ha]
    rfl
  · rw [busRead_accepted hd1 ha, busRead_failed hd2 hh, hp1]
    rfl
  · rw [busRead_accepted hd1 ha, busRead_accepted hd2 hh, busRead_failed hd3 he, hp1, hp2]
    rfl
  · rw [busRead_accepted hd1 ha, busRead_accepted hd2 hh, busRead_accepted hd3 he, commitCalib, hp1,
      hp2, hp3]
    rfl

/-- LOAD_CALIB reports an error and keeps the store, or commits a complete load (R124, R125). -/
theorem replyOf_loadCalib_cases (s : State) :
    (StoreKept s (replyOf .loadCalib s) ∧ (replyOf .loadCalib s).result.status ≠ 0) ∨
      Committed s (replyOf .loadCalib s) := by
  cases hvalid : s.calibValid with
  | true =>
    rw [replyOf_loadCalib_locked hvalid]
    exact .inl ⟨⟨rfl, rfl⟩, by rw [raise_result]; decide⟩
  | false =>
    rw [replyOf_loadCalib_unlocked hvalid]
    obtain ⟨hkept, hfailed, -⟩ | ⟨a, h, e, -, -, -, hok, htrace, -⟩ := loadSpans_cases s
    · exact .inl ⟨hkept, by rw [hfailed]; decide⟩
    · refine .inr ((loadSpans_store hvalid).resolve_left fun ⟨_, hno⟩ => ?_)
      simp [loadCommitted, Reply.shown, hok, htrace] at hno

/-- Settles O50: the pair the command adds is its reply's, an error's or a commit's. -/
theorem loadIsAtomic : Obligations.LoadIsAtomic := by
  intro s t hexec
  obtain ⟨-, rfl⟩ := exec_next hexec
  have hobserved := (replyOf_keeps .loadCalib s).observed_delivered
  obtain ⟨⟨hcalib, hflag⟩, herror⟩ | ⟨hinvalid, hvalid, hby⟩ := replyOf_loadCalib_cases s
  · exact .inl ⟨hcalib, hflag, _, hobserved, herror⟩
  · exact .inr ⟨hinvalid, hvalid, _, hobserved, hby.congr rfl rfl⟩

end Sys2Proof.Machine

/-! PROOFS. The statements of 41_codec.md: the encoders (R141 to R148), the mode and busy decoders
(R149, R150), the burst parser (R151), the round trip of the mode (R152), totality (R153) and the
fields of the images (R154). -/

namespace Sys2Proof.Machine

/-! ### The reply of a codec command -/

/-- A codec command comes to no transaction, so it is never stuck. -/
theorem exec_codec {i : Instr} (hi : isCodec i = true) (s : State) :
    exec i s = deliver (replyOf i s) := by
  have hbus : reachesBus i s.calibValid = false := by
    cases i <;> simp only [isCodec, Bool.false_eq_true] at hi <;> rfl
  rw [exec_eq, stuck, hbus, Bool.and_false]
  rfl

theorem resultOf_of_exec {i : Instr} {s t : State} {r : Result} {trace : List BusEvent}
    (h : exec i s = .next (observe t r trace)) : resultOf i s = some r := by
  simp [resultOf, h]

theorem resultOf_codec {i : Instr} (hi : isCodec i = true) (s : State) :
    resultOf i s = some (replyOf i s).result :=
  resultOf_of_exec (exec_codec hi s)

/-- DEC_MODE is the one codec command whose result can depend on the state. -/
theorem replyOf_codec_cases {i : Instr} (hi : isCodec i = true) :
    (∃ image, i = .decMode image) ∨ ∃ r, ∀ s, replyOf i s = done s r := by
  cases i <;> simp only [isCodec, Bool.false_eq_true] at hi
  case decMode image => exact .inl ⟨image, rfl⟩
  all_goals exact .inr ⟨_, fun _ => rfl⟩

/-! ### Codes -/

theorem codeByte_toNat {v : Nat} (h : v < 256) : (codeByte v).toNat = v := by
  rw [codeByte, BitVec.toNat_ofNat, Nat.mod_eq_of_lt h]

theorem modeCode_eq (v : Nat) : modeCode v = if v = 0 then 0 else if v = 1 then 1 else 3 := by
  match v with
  | 0 => rfl
  | 1 => rfl
  | n + 2 =>
    have hclamp : clampOrd (n + 2) modeMaxOrd = 2 := Nat.min_eq_right (Nat.le_add_left ..)
    simp [modeCode, hclamp]

theorem modeCode_lt (v : Nat) : modeCode v < 4 := by
  rw [modeCode_eq]
  split_ifs <;> decide

/-- Settles O14: each encoder's code as a number; only the mode's is not its clamped ordinal. -/
theorem fieldEncoders : Obligations.FieldEncoders := by
  intro s v a b c
  refine ⟨rfl, rfl, rfl, rfl, exec_codec rfl s, ?_, exec_codec rfl s, exec_codec rfl s⟩
  rw [exec_codec rfl, replyOf, modeCode_eq]
  split_ifs <;> rfl

/-! ### The nearest sample count -/

/-- `k` is the index in `js` of the count nearest to `n`, the smallest such index on a tie (R142). -/
def NearestAmong (n : Nat) (js : List Nat) (k : Nat) : Prop :=
  k ∈ js ∧ ∀ j ∈ js, countDistance n (validCounts.getD k 0) ≤ countDistance n (validCounts.getD j 0) ∧
    (countDistance n (validCounts.getD k 0) = countDistance n (validCounts.getD j 0) → k ≤ j)

/-- A further, larger index takes over exactly when its count is strictly nearer. -/
theorem NearestAmong.snoc {n k j : Nat} {js : List Nat} (h : NearestAmong n js k)
    (hj : ∀ i ∈ js, i < j) : NearestAmong n (js ++ [j]) (nearerOrd n k j) := by
  obtain ⟨hk, hnearest⟩ := h
  have hkj := hj k hk
  simp only [NearestAmong, List.mem_append, List.mem_singleton]
  unfold nearerOrd
  split
  · refine ⟨.inr rfl, fun i hi => ?_⟩
    obtain hi | rfl := hi
    · have := hnearest i hi
      omega
    · exact ⟨le_rfl, fun _ => le_rfl⟩
  · refine ⟨.inl hk, fun i hi => ?_⟩
    obtain hi | rfl := hi
    · exact hnearest i hi
    · omega

theorem nearestAmong_osCountCode (n : Nat) : NearestAmong n [0, 1, 2, 3, 4, 5] (osCountCode n) := by
  have hstart : NearestAmong n [0] 0 := by simp [NearestAmong]
  exact ((((hstart.snoc (j := 1) (by decide)).snoc (j := 2) (by decide)).snoc (j := 3)
    (by decide)).snoc (j := 4) (by decide)).snoc (j := 5) (by decide)

/-- The table of R142: comparing with the two neighbouring counts leaves one range of `n` for each
index. -/
theorem osCountCode_eq (n : Nat) : osCountCode n =
    if n = 0 then 0 else if n = 1 then 1 else if n ≤ 3 then 2 else if n ≤ 6 then 3
      else if n ≤ 12 then 4 else 5 := by
  obtain ⟨hmem, hnearest⟩ := nearestAmong_osCountCode n
  generalize osCountCode n = k at hmem hnearest
  simp only [List.forall_mem_cons, countDistance, validCounts] at hnearest
  simp only [List.mem_cons, List.not_mem_nil, or_false] at hmem
  rcases hmem with rfl | rfl | rfl | rfl | rfl | rfl <;>
    · simp only [List.getD_cons_zero, List.getD_cons_succ] at hnearest
      split_ifs <;> omega

theorem abs_sub_validCount (n j : Nat) :
    |(n : Int) - ([0, 1, 2, 4, 8, 16].getD j 0 : Int)| = countDistance n (validCounts.getD j 0) := by
  have hcast : ([0, 1, 2, 4, 8, 16].getD j 0 : Int) = (validCounts.getD j 0 : Nat) :=
    List.getD_map validCounts (d := 0) (n := j) (fun c : Nat => (c : Int))
  rw [hcast, Int.abs_eq_natAbs, countDistance]
  omega

/-- Settles O15: the search's answer is the nearest index, and the table follows. -/
theorem sampleCountEncoder : Obligations.SampleCountEncoder := by
  refine ⟨fun _ _ _ => rfl, fun s n => ?_⟩
  obtain ⟨hmem, hnearest⟩ := nearestAmong_osCountCode n
  simp only [abs_sub_validCount, Int.ofNat_le, Int.ofNat_inj]
  exact ⟨osCountCode n, List.mem_range.mp hmem, exec_codec rfl s,
    fun j hj => (hnearest j (List.mem_range.mpr hj)).1,
    fun j hj => (hnearest j (List.mem_range.mpr hj)).2, osCountCode_eq n⟩

/-! ### Register images -/

/-- Codes packed into a byte do not overlap (R154). -/
theorem packedCodes_toNat {a b m : Nat} (ha : a < 8) (hb : b < 8) (hm : m < 4) :
    ((codeByte a <<< 5) ||| (codeByte b <<< 2) ||| codeByte m).toNat = 32 * a + 4 * b + m := by
  have hcodeA : (codeByte a).toNat = a := codeByte_toNat (by omega)
  have hcodeB : (codeByte b).toNat = b := codeByte_toNat (by omega)
  have hcodeM : (codeByte m).toNat = m := codeByte_toNat (by omega)
  have hlow : (codeByte b <<< 2 ||| codeByte m).toNat = 2 ^ 2 * b + m := by
    rw [toNat_shiftLeft_or (by omega) (by omega), hcodeB, hcodeM]
  rw [BitVec.or_assoc, toNat_shiftLeft_or (by omega) (by omega), hlow, hcodeA]
  omega

theorem ctrlMeasImage_toNat (osT osP mode : Nat) :
    (ctrlMeasImage osT osP mode).toNat = 32 * osCode osT + 4 * osCode osP + modeCode mode :=
  packedCodes_toNat ((osCode_le osT).trans_lt (by decide)) ((osCode_le osP).trans_lt (by decide))
    (modeCode_lt mode)

theorem configImage_toNat (standby filter : Nat) :
    (configImage standby filter).toNat = 32 * sbCode standby + 4 * fltCode filter := by
  have h := packedCodes_toNat (m := 0) ((sbCode_le standby).trans_lt (by decide))
    ((fltCode_le filter).trans_lt (by decide)) (by decide)
  rwa [show codeByte 0 = 0#8 from rfl, BitVec.or_zero] at h

theorem ctrlHumImage_toNat (osH : Nat) : (ctrlHumImage osH).toNat = osCode osH :=
  codeByte_toNat ((osCode_le osH).trans_lt (by decide))

/-- The three fields of a byte of packed codes. -/
theorem packedCodes_fields {v : Byte} {a b m : Nat} (hv : v.toNat = 32 * a + 4 * b + m) (hb : b < 8)
    (hm : m < 4) : (v >>> 5).toNat = a ∧ ((v >>> 2) &&& 7#8).toNat = b ∧ (v &&& 3#8).toNat = m := by
  refine ⟨?_, ?_, ?_⟩
  · rw [BitVec.toNat_ushiftRight, Nat.shiftRight_eq_div_pow]
    omega
  · rw [BitVec.toNat_and, BitVec.toNat_ushiftRight, Nat.shiftRight_eq_div_pow]
    exact (Nat.and_two_pow_sub_one_eq_mod _ 3).trans (by omega)
  · rw [BitVec.toNat_and]
    exact (Nat.and_two_pow_sub_one_eq_mod _ 2).trans (by omega)

/-- Settles O16: each image is the number its codes are packed into. -/
theorem imageEncoders : Obligations.ImageEncoders := by
  refine ⟨fun _ _ _ => ⟨rfl, rfl, rfl⟩, fun s x y z => ⟨⟨_, exec_codec rfl s, ?_⟩,
    ⟨_, exec_codec rfl s, ?_⟩, ⟨_, exec_codec rfl s, ctrlHumImage_toNat x⟩⟩⟩
  · have hbyte : (ctrlMeasImage x y z).toNat =
        32 * min x 5 + 4 * min y 5 + (if z = 0 then 0 else if z = 1 then 1 else 3) := by
      rw [ctrlMeasImage_toNat, modeCode_eq]
      rfl
    refine ⟨hbyte, ?_⟩
    rw [hbyte]
    split_ifs <;> omega
  · have hbyte : (configImage x y).toNat = 32 * min x 7 + 4 * min y 4 := configImage_toNat x y
    refine ⟨hbyte, ?_⟩
    rw [hbyte]
    omega

/-- Settles O17: both images are packed from codes that fit their fields. -/
theorem imageFieldsRecovered : Obligations.ImageFieldsRecovered := by
  intro s a b c d f
  have := osCode_le a
  have := osCode_le b
  have := modeCode_lt c
  have := sbCode_le d
  have := fltCode_le f
  refine ⟨_, _, resultOf_codec rfl s, resultOf_codec rfl s, ?_⟩
  obtain ⟨hosT, hosP, hmode⟩ := packedCodes_fields (ctrlMeasImage_toNat a b c) (by omega) (by omega)
  obtain ⟨hsb, hflt, -⟩ := packedCodes_fields (m := 0) (configImage_toNat d f) (by omega) (by omega)
  exact ⟨hosT, hosP, hmode, hsb, hflt, by omega, by omega, by omega, by omega, by omega⟩

/-! ### The mode decoder -/

theorem modeField_of_mod {image : Byte} {m : Nat} (h : image.toNat % 4 = m) :
    modeField image = BitVec.ofNat 2 m := by
  apply BitVec.eq_of_toNat_eq
  rw [modeField, BitVec.extractLsb'_toNat, BitVec.toNat_ofNat, Nat.shiftRight_zero]
  omega

/-- A mode field with an ordinal of its own: no draw is made, so the state is as before. -/
theorem exec_decMode_of_ordinal {s : State} {image : Byte} {field : BitVec 2} {m : Nat}
    (hfield : modeField image = field) (hm : modeOrdinal s.params.mode10Decode field = some m) :
    exec (.decMode image) s =
      .next (observe s { code := field.setWidth 8, mode := codeByte m } []) := by
  rw [exec_codec rfl, replyOf, decodeModeInto, hfield, hm]
  rfl

/-- Settles O19: one ordinal for each field and parameter, and a draw where both leave it open. -/
theorem modeDecoder : Obligations.ModeDecoder := by
  refine ⟨fun a _ _ => ?_, fun s image =>
    ⟨fun h => exec_decMode_of_ordinal (modeField_of_mod h) rfl,
      fun h => exec_decMode_of_ordinal (modeField_of_mod h) rfl,
      fun h => exec_decMode_of_ordinal (modeField_of_mod h) rfl,
      fun h => ⟨fun hd => exec_decMode_of_ordinal (modeField_of_mod h) (by rw [hd]; rfl),
        fun hd => exec_decMode_of_ordinal (modeField_of_mod h) (by rw [hd]; rfl),
        fun hd => exec_decMode_of_ordinal (modeField_of_mod h) (by rw [hd]; rfl)⟩⟩,
    fun s image hopen h => ⟨?_, ?_⟩⟩
  · rw [← field8_eq]
    rfl
  · rw [exec_codec rfl, replyOf, decodeModeInto, modeField_of_mod h, hopen]
    rfl
  · have := (Config.freeMode s.fresh).isLt
    rw [codeByte_toNat (by omega)]
    omega

theorem modeOrdinal_modeCode (d : Mode10Decode) {m : Nat} (hm : m ≤ 2) :
    modeOrdinal d (BitVec.ofNat 2 (modeCode m)) = some m := by
  interval_cases m <;> rfl

/-- An image with the code of a mode in its mode field decodes to that mode, under every
`MODE10_DECODE`. -/
theorem resultOf_decMode_modeCode (s : State) {image : Byte} {m : Nat} (hm : m ≤ 2)
    (himage : image.toNat % 4 = modeCode m) :
    ∃ r, resultOf (.decMode image) s = some r ∧ r.mode.toNat = m := by
  have hmode : (codeByte m).toNat = m := codeByte_toNat (by omega)
  have hexec := exec_decMode_of_ordinal (s := s) (modeField_of_mod himage) (modeOrdinal_modeCode _ hm)
  exact ⟨_, resultOf_of_exec hexec, hmode⟩

/-- Settles O18: the code and the ctrl_meas image both hold the mode's code in bits 1:0. -/
theorem modeRoundTrip : Obligations.ModeRoundTrip := by
  intro s t a b m hm
  have hcode := modeCode_lt m
  have hfield : (codeByte (modeCode m)).toNat % 4 = modeCode m := by
    rw [codeByte_toNat (by omega)]
    omega
  have himage : (ctrlMeasImage a b m).toNat % 4 = modeCode m := by
    rw [ctrlMeasImage_toNat]
    omega
  obtain ⟨q, hq, hqm⟩ := resultOf_decMode_modeCode t hm hfield
  obtain ⟨v, hv, hvm⟩ := resultOf_decMode_modeCode t hm himage
  exact ⟨_, q, _, v, resultOf_codec rfl s, hq, hqm, resultOf_codec rfl s, hv, hvm⟩

/-! ### The busy decoder and the burst parser -/

theorem busyFlag_eq (image : Byte) :
    busyFlag image = if image.toNat / 8 % 2 = 1 then 1#1 else 0#1 := by
  apply BitVec.eq_of_toNat_eq
  rw [busyFlag, BitVec.extractLsb'_toNat, Nat.shiftRight_eq_div_pow]
  split <;> simp <;> omega

/-- Settles O20: the flag is the bit as a number. -/
theorem busyDecoder : Obligations.BusyDecoder := by
  refine ⟨fun a _ _ => ?_, fun s image => ?_⟩
  · rw [← field8_eq]
    rfl
  · rw [← busyFlag_eq]
    exact exec_codec rfl s

/-- Two bytes and the high nibble of a third as one number (R94). -/
theorem rawOfBytes_eq (x y z : Byte) :
    (x.setWidth 20 <<< 12) ||| (y.setWidth 20 <<< 4) ||| (z >>> 4).setWidth 20 =
      BitVec.ofNat 20 (x.toNat * 2 ^ 12 + y.toNat * 2 ^ 4 + z.toNat / 2 ^ 4) := by
  have hwide (v : Byte) : (v.setWidth 20).toNat = v.toNat := BitVec.toNat_setWidth_of_le (by decide)
  have hx := hwide x
  have hy := hwide y
  have hz : ((z >>> 4).setWidth 20).toNat = z.toNat / 2 ^ 4 := by
    rw [hwide, BitVec.toNat_ushiftRight, Nat.shiftRight_eq_div_pow]
  have hyz : (y.setWidth 20 <<< 4 ||| (z >>> 4).setWidth 20).toNat =
      2 ^ 4 * y.toNat + z.toNat / 2 ^ 4 := by
    rw [toNat_shiftLeft_or (by omega) (by omega), hy, hz]
  apply BitVec.eq_of_toNat_eq
  rw [BitVec.or_assoc, toNat_shiftLeft_or (by omega) (by omega), hx, hyz, BitVec.toNat_ofNat]
  omega

theorem burstRawP_eq (x : Burst) : burstRawP x =
    BitVec.ofNat 20 (x.b0.toNat * 2 ^ 12 + x.b1.toNat * 2 ^ 4 + x.b2.toNat / 2 ^ 4) :=
  rawOfBytes_eq ..

theorem burstRawT_eq (x : Burst) : burstRawT x =
    BitVec.ofNat 20 (x.b3.toNat * 2 ^ 12 + x.b4.toNat * 2 ^ 4 + x.b5.toNat / 2 ^ 4) :=
  rawOfBytes_eq ..

theorem burstRawH_eq (x : Burst) :
    burstRawH x = BitVec.ofNat 16 (x.b6.toNat * 2 ^ 8 + x.b7.toNat) := by
  have h6 : (x.b6.setWidth 16).toNat = x.b6.toNat := BitVec.toNat_setWidth_of_le (by decide)
  have h7 : (x.b7.setWidth 16).toNat = x.b7.toNat := BitVec.toNat_setWidth_of_le (by decide)
  apply BitVec.eq_of_toNat_eq
  rw [burstRawH, toNat_shiftLeft_or (by omega) (by omega), h6, h7, BitVec.toNat_ofNat]
  omega

/-- On operand words the nibbles A[11:8] and B[19:16] drop out. -/
theorem burstRaw_burstOfWords (a b : Word) :
    burstRawP (burstOfWords a b) = BitVec.ofNat 20 (a.toNat / 2 ^ 12) ∧
      burstRawT (burstOfWords a b) =
        BitVec.ofNat 20 (a.toNat % 2 ^ 8 * 2 ^ 12 + b.toNat / 2 ^ 20) ∧
      burstRawH (burstOfWords a b) = BitVec.ofNat 16 b.toNat := by
  rw [burstOfWords_eq, burstRawP_eq, burstRawT_eq, burstRawH_eq]
  simp only [BitVec.toNat_ofNat]
  refine ⟨?_, ?_, ?_⟩ <;>
    · apply BitVec.eq_of_toNat_eq
      simp only [BitVec.toNat_ofNat]
      omega

/-- Settles O21: the raw values as numbers, of the bytes and of the words. -/
theorem burstParser : Obligations.BurstParser := by
  refine ⟨fun _ _ _ => rfl, fun s x => ?_, fun s a b => ?_⟩
  · rw [← burstRawP_eq, ← burstRawT_eq, ← burstRawH_eq]
    exact exec_codec rfl s
  · obtain ⟨hp, ht, hh⟩ := burstRaw_burstOfWords a b
    rw [← hp, ← ht, ← hh]
    exact resultOf_codec rfl s

/-! ### Totality -/

/-- Settles O22: every reply but DEC_MODE's is one record in every state, and DEC_MODE reads the
parameters and the counter only. -/
theorem codecCommandsTotal : Obligations.CodecCommandsTotal := by
  intro i s hi
  simp only [exec_codec hi]
  obtain ⟨image, rfl⟩ | ⟨r, hr⟩ := replyOf_codec_cases hi
  · refine ⟨(decodeModeInto s image {}).result, (decodeModeInto s image {}).state.fresh, ?_,
      fun c v => ?_⟩ <;>
    · simp only [replyOf, decodeModeInto]
      cases modeOrdinal s.params.mode10Decode (modeField image) <;> rfl
  · refine ⟨{ r with status := 0#8 }, s.fresh, rfl, fun c v => ?_⟩
    rw [hr]
    rfl

end Sys2Proof.Machine

/-! PROOFS. The statements of 42_compensation.md: the temperature offset (R186), the three stages (R188 to
R196), the commands COMP_T, COMP_P, COMP_H and COMP_ALL (R197 to R202), the range of the humidity (R204)
and the calibration test (R187). -/

namespace Sys2Proof.Machine

/-! ### Exact values in binary32 -/

/-- A rational with a significand of 24 bits is its own nearest value. -/
theorem f32Significand_exact {m d s e : Nat} (hd : 0 < d) (hs : s < 2 ^ 24)
    (hexact : s * 2 ^ e * d = m * 2 ^ 149) :
    f32Significand m d * 2 ^ f32Shift m d * d = m * 2 ^ 149 := by
  obtain ⟨hnear, -⟩ :=
    f32Significand_nearest (m := m) hd hs (z := (s * 2 ^ e : Nat)) (Int.natAbs_natCast _)
  have hzero : ((s * 2 ^ e : Nat) * d - m * 2 ^ 149 : Int) = 0 :=
    sub_eq_zero.mpr (by exact_mod_cast hexact)
  rw [hzero, abs_zero] at hnear
  exact_mod_cast sub_eq_zero.mp (abs_nonpos_iff.mp hnear)

/-- Settles O35: h_q10 has 17 bits, so it is the significand of h_q10 / 1024. -/
theorem humidityFloatExact : Obligations.HumidityFloatExact := by
  intro h h0 hmax
  have hfin : f32Exp (rne32 h 1024) ≠ 255 := f32Exp_rne32_of_lt (by decide) (by omega)
  have hexact := f32Significand_exact (m := h.natAbs) (d := 1024) (s := h.natAbs) (e := 139)
    (by decide) (by omega) (by ring)
  refine ⟨hfin, ?_⟩
  rw [f32Units_rne32 hfin, if_neg (by omega), one_mul, ← Int.natAbs_of_nonneg h0]
  exact_mod_cast hexact

theorem roundHalfEven_mul_left {g : Nat} (hg : 0 < g) (n : Nat) : roundHalfEven (g * n) g = n := by
  have hdiv : g * n / g = n := Nat.mul_div_cancel_left n hg
  have hmod : g * n % g = 0 := Nat.mul_mod_right g n
  obtain ⟨h, -⟩ | ⟨-, hr⟩ := roundHalfEven_cases (g * n) g
  · rw [h, hdiv]
  · omega

/-- The shift of a value of `s * 2^f` units is `f` where `s` is the significand of a pattern. -/
theorem f32Shift_units {s f : Nat} (hs : s < 2 ^ 24) (hf : f ≠ 0 → 2 ^ 23 ≤ s) :
    f32Shift (s * 2 ^ f) (2 ^ 149) = f := by
  rw [f32Shift, Nat.mul_div_cancel_left _ (by positivity)]
  by_cases hlow : s < 2 ^ 23
  · have hf0 : f = 0 := by by_contra h; have := hf h; omega
    have hlog := Nat.log_lt_of_lt_pow' (b := 2) (by decide) hlow
    rw [hf0, pow_zero, mul_one, Nat.log2_eq_log_two]
    omega
  · have hlog : Nat.log2 (s * 2 ^ f) = 23 + f := by
      rw [Nat.log2_eq_iff (Nat.mul_ne_zero (by omega) (by positivity)), pow_add, Nat.add_right_comm,
        pow_add]
      exact ⟨Nat.mul_le_mul_right _ (by omega), Nat.mul_lt_mul_of_pos_right hs (by positivity)⟩
    omega

/-- The magnitude bits of a finite pattern are those of its value. -/
theorem f32Magnitude_f32Abs {x : Word} (hx : f32Exp x ≠ 255) :
    f32Magnitude (f32Abs x) (2 ^ 149) = 2 ^ 23 * f32Exp x + f32Frac x := by
  have hfrac : f32Frac x < 2 ^ 23 := by rw [f32Frac_eq]; exact Nat.mod_lt _ (by decide)
  have hexp : f32Exp x < 2 ^ 8 := by rw [f32Exp_eq]; exact Nat.mod_lt _ (by decide)
  have hmag {s f : Nat} (hs : s < 2 ^ 24) (hf : f ≠ 0 → 2 ^ 23 ≤ s) :
      f32Magnitude (s * 2 ^ f) (2 ^ 149) = min (2 ^ 23 * f + s) 0x7F800000 := by
    rw [f32Magnitude, f32Shift_units hs hf, mul_left_comm, mul_comm s,
      roundHalfEven_mul_left (by positivity)]
  unfold f32Abs
  split
  · have hsub := hmag (s := f32Frac x) (f := 0) (by omega) (by omega)
    rw [pow_zero, mul_one] at hsub
    omega
  · rw [hmag (by omega) (by omega)]
    omega

/-- A pattern is its sign and magnitude put together again. -/
theorem f32Pack_fields (x : Word) : f32Pack (f32Sign x) (2 ^ 23 * f32Exp x + f32Frac x) = x := by
  apply BitVec.eq_of_toNat_eq
  rw [f32Exp_eq, f32Frac_eq, f32Pack_toNat (by omega), f32Sign, BitVec.getLsbD_last]
  simp only [decide_eq_true_eq]
  split <;> omega

/-- The value of a pattern that is no zero has the pattern's sign. -/
theorem f32Units_neg_iff {x : Word} (h : f32Units x ≠ 0) : decide (f32Units x < 0) = f32Sign x := by
  rw [f32Units] at h ⊢
  cases hs : f32Sign x with
  | false => simp
  | true =>
    rw [hs, if_pos rfl] at h
    rw [if_pos rfl]
    exact decide_eq_true (by omega)

/-- Rounding the value of a finite pattern gives the pattern back. -/
theorem rne32_f32Units {x : Word} (hx : f32Exp x ≠ 255) (h : f32Units x ≠ 0) :
    rne32 (f32Units x) (2 ^ 149) = x := by
  rw [rne32, f32Units_neg_iff h, f32Units_natAbs, f32Magnitude_f32Abs hx, f32Pack_fields]

/-- The patterns of zero. -/
theorem eq_zero_or_of_f32Units {x : Word} (h : f32Units x = 0) : x = 0#32 ∨ x = 0x80000000#32 := by
  have habs : f32Abs x = 0 := by rw [← f32Units_natAbs, h]; rfl
  obtain ⟨hexp, hfrac⟩ : f32Exp x = 0 ∧ f32Frac x = 0 := by
    unfold f32Abs at habs
    split at habs
    · exact ⟨by assumption, habs⟩
    · exact absurd habs (Nat.mul_ne_zero (by omega) (by positivity))
  rw [← f32Pack_fields x, hexp, hfrac]
  cases f32Sign x
  · exact .inl rfl
  · exact .inr rfl

/-! ### The offset addition -/

theorem f32IsNaN_of_finite {x : Word} (h : f32Exp x ≠ 255) : f32IsNaN x = false := by
  simp [f32IsNaN, h]

theorem f32IsInf_of_finite {x : Word} (h : f32Exp x ≠ 255) : f32IsInf x = false := by
  simp [f32IsInf, h]

/-- Rounding gives at most infinity. -/
theorem f32IsNaN_rne32 (num : Int) (den : Nat) : f32IsNaN (rne32 num den) = false := by
  have hmag : f32Magnitude num.natAbs den ≤ 0x7F800000 := Nat.min_le_right _ _
  rw [f32IsNaN, rne32, f32Exp_f32Pack (f32Magnitude_lt _ _), f32Frac_f32Pack (f32Magnitude_lt _ _)]
  simp only [Bool.and_eq_false_imp, beq_iff_eq, bne_eq_false_iff_eq]
  omega

theorem quietNaN_bit (free : Word) : (quietNaN free).getLsbD 22 = true := by
  simp [quietNaN]

theorem f32Exp_quietNaN (free : Word) : f32Exp (quietNaN free) = 255 := by
  simp [f32Exp, quietNaN, BitVec.extractLsb'_or, BitVec.extractLsb'_and]

/-- Bit 22 is a fraction bit, so the fraction is not 0. -/
theorem f32IsNaN_quietNaN (free : Word) : f32IsNaN (quietNaN free) = true := by
  have hfrac : f32Frac (quietNaN free) ≠ 0 := fun h => by
    have hzero : (quietNaN free).extractLsb' 0 23 = 0#23 := BitVec.eq_of_toNat_eq h
    have hbit : ((quietNaN free).extractLsb' 0 23).getLsbD 22 = true := by
      rw [BitVec.getLsbD_extractLsb']
      simp [quietNaN_bit]
    rw [hzero] at hbit
    simp at hbit
  simp [f32IsNaN, f32Exp_quietNaN, hfrac]

section FiniteTemperature

variable {t offset : Word}

theorem f32Add_nan (h : f32IsNaN offset = true) : f32Add t offset = none := by
  simp [f32Add, h]

variable (ht : f32Exp t ≠ 255)
include ht

theorem f32Add_inf (h : f32IsInf offset = true) : f32Add t offset = some offset := by
  have hnan : f32IsNaN offset = false := by
    simp only [f32IsInf, Bool.and_eq_true, beq_iff_eq] at h
    simp [f32IsNaN, h]
  simp [f32Add, h, hnan, f32IsNaN_of_finite ht, f32IsInf_of_finite ht]

theorem f32Add_finite (h : f32Exp offset ≠ 255) :
    f32Add t offset = some (f32AddFinite t offset) := by
  simp [f32Add, f32IsNaN_of_finite, f32IsInf_of_finite, ht, h]

/-- An offset of +0.0 leaves every finite temperature but -0.0 as it is. -/
theorem f32Add_zero (h : t ≠ 0x80000000#32) : f32Add t 0#32 = some t := by
  have hzero : f32Units 0#32 = 0 := by decide
  rw [f32Add_finite ht (by decide), f32AddFinite, hzero, add_zero]
  by_cases h0 : f32Units t = 0
  · rw [if_pos h0, (eq_zero_or_of_f32Units h0).resolve_right h]
    rfl
  · rw [if_neg h0, rne32_f32Units ht h0]

end FiniteTemperature

/-- An exact zero sum is one of the two zeros. -/
theorem f32AddFinite_cases (x y : Word) :
    (f32Units x + f32Units y = 0 ∧ (f32AddFinite x y = 0x80000000#32 ∨ f32AddFinite x y = 0#32)) ∨
      f32AddFinite x y = rne32 (f32Units x + f32Units y) (2 ^ 149) := by
  rw [f32AddFinite]
  split_ifs with h0
  exacts [.inl ⟨h0, .inl rfl⟩, .inl ⟨h0, .inr rfl⟩, .inr rfl]

theorem f32AddFinite_not_nan (x y : Word) : f32IsNaN (f32AddFinite x y) = false := by
  obtain ⟨-, h | h⟩ | h := f32AddFinite_cases x y <;> rw [h]
  exacts [by decide, by decide, f32IsNaN_rne32 _ _]

theorem f32AddFinite_finite {x y : Word} (hsum : |f32Units x + f32Units y| < 2 ^ 127 * 2 ^ 149) :
    f32Exp (f32AddFinite x y) ≠ 255 := by
  obtain ⟨-, h | h⟩ | h := f32AddFinite_cases x y <;> rw [h]
  · decide
  · decide
  · exact f32Exp_rne32_of_lt (by decide) (by zify; push_cast; exact hsum)

/-- The sum is rounded as the rational `sum / 2^149`; an exact zero sum is delivered exactly. -/
theorem f32AddFinite_nearest {x y : Word} {sum : Int} (hsum : f32Units x + f32Units y = sum)
    (hfin : f32Exp (f32AddFinite x y) ≠ 255) (z : Word) :
    |f32Units (f32AddFinite x y) - sum| ≤ |f32Units z - sum| ∧
      (|f32Units (f32AddFinite x y) - sum| = |f32Units z - sum| →
        f32Units z ≠ f32Units (f32AddFinite x y) → f32Frac (f32AddFinite x y) % 2 = 0) := by
  obtain ⟨h0, h⟩ | h := f32AddFinite_cases x y
  · obtain ⟨hunits, hfrac⟩ : f32Units (f32AddFinite x y) = 0 ∧ f32Frac (f32AddFinite x y) = 0 := by
      obtain h | h := h <;> rw [h] <;> decide
    rw [← hsum, h0, hunits, hfrac]
    exact ⟨by simp, fun _ _ => rfl⟩
  · rw [hsum] at h
    rw [h] at hfin ⊢
    have hscale (v : Int) : |v * (2 ^ 149 : Nat) - sum * 2 ^ 149| = |v - sum| * 2 ^ 149 := by
      push_cast
      rw [← sub_mul, abs_mul]
      exact congrArg _ (abs_of_pos (by positivity))
    obtain ⟨hle, heven⟩ := rne32_nearest (den := 2 ^ 149) (by positivity) hfin z
    rw [hscale, hscale] at hle heven
    exact ⟨le_of_mul_le_mul_right hle (by positivity), fun heq => heven (by rw [heq])⟩

theorem addOffset_zero (s : State) {t : Word} (hfin : f32Exp t ≠ 255) (hne : t ≠ 0x80000000#32) :
    addOffset s t 0#32 = (t, s) :=
  addOffset_some (f32Add_zero hfin hne)

/-- Settles O13: a NaN offset draws a quiet NaN, an infinite one is the sum, and a finite sum is rounded
once. -/
theorem offsetAddition : Obligations.OffsetAddition := by
  intro s t offset ht
  refine ⟨fun hnan => ?_, fun hinf => addOffset_some (f32Add_inf ht hinf), fun hfin => ?_,
    addOffset_zero s ht⟩
  · rw [addOffset_none (f32Add_nan hnan)]
    exact ⟨f32IsNaN_quietNaN _, quietNaN_bit _⟩
  · rw [addOffset_some (f32Add_finite ht hfin)]
    exact ⟨rfl, f32AddFinite_not_nan _ _, f32AddFinite_finite,
      fun hr y _ => f32AddFinite_nearest rfl hr y⟩

/-! ### Checked stages -/

/-- What a stage under `policy` asks of the intermediates `l`: FAULT checks each of them, UNBOUNDED none
(00_scope.md R9). -/
def admits (policy : OverflowPolicy) (w : Nat) (l : List Int) : Bool :=
  match policy with
  | .fault => allFit w l
  | .unbounded => true

@[simp] theorem admits_fault (w : Nat) (l : List Int) : admits .fault w l = allFit w l := rfl
@[simp] theorem admits_unbounded (w : Nat) (l : List Int) : admits .unbounded w l = true := rfl

theorem allFit_cons (w : Nat) (v : Int) (l : List Int) :
    allFit w (v :: l) = (fitsS w v && allFit w l) := rfl

/-- The computation is `result` if `policy` admits the intermediates `l`, and an overflow otherwise. -/
def ChecksThen {α : Type} (policy : OverflowPolicy) (w : Nat) (l : List Int)
    (computation result : Except StageError α) : Prop :=
  computation = if admits policy w l then result else .error .arithmeticOverflow

theorem ChecksThen.nil {α : Type} (policy : OverflowPolicy) (w : Nat) (f : Except StageError α) :
    ChecksThen policy w [] f f := by
  cases policy <;> rfl

/-- A check of `v`, then the rest of a stage. -/
theorem ChecksThen.chk_bind {α : Type} {policy : OverflowPolicy} {w : Nat} {v : Int} {l : List Int}
    {k : Int → Except StageError α} {result : Except StageError α}
    (hk : ChecksThen policy w l (k v) result) :
    ChecksThen policy w (v :: l) (chk policy w v >>= k) result := by
  cases policy with
  | unbounded => exact hk
  | fault =>
    rw [ChecksThen, chk_fault_bind, hk, admits_fault, admits_fault, allFit_cons]
    cases fitsS w v <;> rfl

theorem allFit_append (w : Nat) (l l' : List Int) :
    allFit w (l ++ l') = (allFit w l && allFit w l') := List.all_append

/-- One part of a stage, then the rest. -/
theorem ChecksThen.bind {α β : Type} {policy : OverflowPolicy} {w : Nat} {l l' : List Int}
    {f : Except StageError α} {v : α} {k : α → Except StageError β} {result : Except StageError β}
    (hf : ChecksThen policy w l f (.ok v)) (hk : ChecksThen policy w l' (k v) result) :
    ChecksThen policy w (l ++ l') (f >>= k) result := by
  cases policy with
  | unbounded => rw [show f = .ok v from hf]; exact hk
  | fault =>
    rw [ChecksThen] at hf
    rw [ChecksThen, hf, admits_fault, admits_fault, allFit_append]
    cases allFit w l with
    | false => rfl
    | true => exact hk

/-- A stage with checks ends as the one without them, or with an overflow. -/
theorem ChecksThen.eq_or_overflow {α : Type} {policy : OverflowPolicy} {w : Nat} {l : List Int}
    {f result : Except StageError α} (h : ChecksThen policy w l f result) :
    f = result ∨ f = .error .arithmeticOverflow := by
  rw [ChecksThen] at h
  split at h
  exacts [.inl h, .inr h]

/-- Under FAULT the check of the result field is one more check of the policy. -/
theorem ChecksThen.fault_field {w : Nat} {l : List Int} {f : Stage} {v : Int}
    (h : ChecksThen .fault w l f (chkField w v)) :
    f = if allFit w (l ++ [v]) then .ok v else .error .arithmeticOverflow := by
  rw [ChecksThen] at h
  rw [h, admits_fault, allFit_append, chkField]
  cases allFit w l with
  | false => rfl
  | true =>
    rw [if_pos rfl, allFit_cons]
    cases fitsS w v <;> rfl

/-! The steps of each stage, one check each, and the closed form they end in. -/

theorem temperature_checks (policy : OverflowPolicy) (c : Calib) (r : Int) :
    ChecksThen policy 32 (tempIntermediates c r).dropLast (temperature policy c r)
      (chkField 32 (tempValue c r)) := by
  simp only [temperature, asr_eq_div, shl, tempIntermediates, tempValue, mul_comm _ c.t1]
  iterate 7 refine .chk_bind ?_
  exact .nil ..

theorem humidity_checks (policy : OverflowPolicy) (c : Calib) (r t : Int) :
    ChecksThen policy 32 (humIntermediates c r t) (humidity policy c r t)
      (.ok (humValue c r t)) := by
  simp only [humidity, asr_eq_div, shl]
  iterate 18 refine .chk_bind ?_
  exact .nil ..

theorem pressureTail_checks (policy : OverflowPolicy) (c : Calib) (r t : Int) :
    ChecksThen policy 64 (presAfter c r t).dropLast
      (pressureTail policy c r (presOffset c t) (presDivisor c t))
      (chkField 64 (presValue c r t)) := by
  simp only [pressureTail, asr_eq_div, divTrunc_eq_tdiv, shl]
  iterate 10 refine .chk_bind ?_
  exact .nil ..

theorem pressureTerms_checks (policy : OverflowPolicy) (c : Calib) (t : Int) :
    ChecksThen policy 64 ((presBefore c t).take 12) (pressureTerms policy c t)
      (.ok (presSlope c t, presOffset c t)) := by
  simp only [pressureTerms, asr_eq_div, shl]
  iterate 12 refine .chk_bind ?_
  exact .nil ..

theorem pressureDivisor_checks (policy : OverflowPolicy) (c : Calib) (t : Int) :
    ChecksThen policy 64 ((presBefore c t).drop 12)
      (pressureDivisor policy c (presSlope c t)) (.ok (presDivisor c t)) := by
  simp only [pressureDivisor, asr_eq_div, shl, one_mul]
  iterate 2 refine .chk_bind ?_
  exact .nil ..

/-- The zero test stands between the checks of `presBefore` and those of `presAfter`. -/
theorem pressure_checks (policy : OverflowPolicy) (c : Calib) (r t : Int) :
    ChecksThen policy 64 (presBefore c t) (pressure policy c r t)
      (if presDivisor c t = 0 then .error .invalidPressureReading
        else pressureTail policy c r (presOffset c t) (presDivisor c t)) := by
  refine .bind (pressureTerms_checks policy c t)
    (.bind (l' := []) (pressureDivisor_checks policy c t) ?_)
  dsimp only
  split <;> exact .nil ..

/-- Settles O25: the overflows of `presBefore` come first, then the zero test, then those of
`presAfter`. -/
theorem pressureStage : Obligations.PressureStage := by
  refine ⟨fun c r t => ?_, fun c r t => ?_, fun c t => ?_⟩
  · have hafter : (presAfter c r t).dropLast ++ [presValue c r t] = presAfter c r t := rfl
    rw [pressure_checks, admits_fault, (pressureTail_checks .fault c r t).fault_field, hafter]
    cases allFit 64 (presBefore c t) with
    | false => rfl
    | true => cases allFit 64 (presAfter c r t) <;> rfl
  · rw [pressure_checks, admits_unbounded, pressureTail_checks]
    rfl
  · rw [presDivisor]
    constructor
    · intro h
      exact .inr (by omega)
    · rintro (h | h)
      · rw [h, mul_zero]
        rfl
      · omega

/-- Settles O26: the clamp bounds the value whatever the terms are. -/
theorem humidityStage : Obligations.HumidityStage := by
  refine ⟨humidity_checks .fault, humidity_checks .unbounded, fun c r t => ?_⟩
  unfold humValue
  omega

/-! ### What a stage can end with -/

theorem OverflowOr.of_ok {P : Int → Prop} {stage : Stage} {v : Int} (h : OverflowOr P stage)
    (hok : stage = .ok v) : P v := by
  subst hok
  obtain herror | ⟨w, hw, hP⟩ := h
  · cases herror
  · cases hw
    exact hP

theorem OverflowOr.of_error {P : Int → Prop} {stage : Stage} {e : StageError} (h : OverflowOr P stage)
    (he : stage = .error e) : e = .arithmeticOverflow := by
  subst he
  obtain herror | ⟨_, hok, -⟩ := h
  · exact Except.error.inj herror
  · cases hok

theorem chkField_overflowOr (w : Nat) (v : Int) :
    OverflowOr (fun x => x = v ∧ fitsS w x = true) (chkField w v) := by
  cases hv : fitsS w v with
  | true => exact .inr ⟨v, chkField_of_fits hv, rfl, hv⟩
  | false => exact .inl (chkField_of_not_fits hv)

/-- The temperature stage overflows or delivers its closed form, which fits the result field. -/
theorem temperature_overflowOr (policy : OverflowPolicy) (c : Calib) (r : Int) :
    OverflowOr (fun t => t = tempValue c r ∧ fitsS 32 t = true) (temperature policy c r) := by
  obtain h | h := (temperature_checks policy c r).eq_or_overflow
  · rw [h]
    exact chkField_overflowOr ..
  · exact .inl h

/-- A delivered pressure fits its result field. -/
theorem pressure_ok_fits {p : OverflowPolicy} {c : Calib} {r t v : Int}
    (h : pressure p c r t = .ok v) : fitsS 64 v = true := by
  obtain hstage | hstage := (pressure_checks p c r t).eq_or_overflow
  · rw [hstage] at h
    split at h
    · cases h
    · obtain htail | htail := (pressureTail_checks p c r t).eq_or_overflow
      · exact ((chkField_overflowOr ..).of_ok (htail.symm.trans h)).2
      · cases htail.symm.trans h
  · cases hstage.symm.trans h

/-! ### The range of the temperature stage -/

theorem abs_mul_le_of_abs_le {a b x y : Int} (ha : |a| ≤ x) (hb : |b| ≤ y) : |a * b| ≤ x * y := by
  rw [abs_mul]
  exact mul_le_mul ha hb (abs_nonneg b) ((abs_nonneg a).trans ha)

section Temperature

variable {c : Calib} {r : Int} {se : Bool} (hc : StoreInRange se c)
include hc

theorem abs_t2_le : |c.t2| ≤ 32768 := by
  obtain ⟨hlow, hhigh⟩ : -32768 ≤ c.t2 ∧ c.t2 ≤ 32767 := hc 1
  exact abs_le.mpr (by omega)

theorem abs_t3_le : |c.t3| ≤ 32768 := by
  obtain ⟨hlow, hhigh⟩ : -32768 ≤ c.t3 ∧ c.t3 ≤ 32767 := hc 2
  exact abs_le.mpr (by omega)

/-- What the floors of the first term lose, in units of 2^-14: the low three bits of the raw value, and
the last shift. -/
theorem abs_tempFirst_sub_le :
    |(r - 16 * c.t1) * c.t2 - 2 ^ 14 * (((r / 8 - 2 * c.t1) * c.t2) / 2 ^ 11)| ≤ 15 * 2 ^ 14 := by
  have hsplit : (r - 16 * c.t1) * c.t2 = 8 * ((r / 8 - 2 * c.t1) * c.t2) + r % 8 * c.t2 := by
    linear_combination -c.t2 * Int.emod_add_mul_ediv r 8
  have hlow := abs_mul_le_of_abs_le (a := r % 8) (x := 7) (abs_le.mpr (by omega)) (abs_t2_le hc)
  rw [abs_le] at hlow ⊢
  omega

variable (h0 : 0 ≤ r) (h20 : r < 2 ^ 20)
include h0 h20

theorem abs_tempFirst_le : |((r / 8 - 2 * c.t1) * c.t2) / 2 ^ 11| ≤ 2097136 := by
  obtain ⟨hlow, hhigh⟩ : 0 ≤ c.t1 ∧ c.t1 ≤ 65535 := hc 0
  have hprod := abs_mul_le_of_abs_le (a := r / 8 - 2 * c.t1) (x := 131071) (abs_le.mpr (by omega))
    (abs_t2_le hc)
  rw [abs_le] at hprod ⊢
  omega

theorem abs_tempDifference_le : |r / 16 - c.t1| ≤ 65535 := by
  obtain ⟨hlow, hhigh⟩ : 0 ≤ c.t1 ∧ c.t1 ≤ 65535 := hc 0
  exact abs_le.mpr (by omega)

theorem abs_tempSecond_le :
    |((r / 16 - c.t1) * (r / 16 - c.t1)) / 2 ^ 12 * c.t3 / 2 ^ 14| ≤ 2097088 := by
  have hdiff := abs_tempDifference_le hc h0 h20
  have hsq := abs_mul_le_of_abs_le hdiff hdiff
  rw [abs_mul_self] at hsq
  have hsq0 := mul_self_nonneg (r / 16 - c.t1)
  have hprod := abs_mul_le_of_abs_le (a := (r / 16 - c.t1) * (r / 16 - c.t1) / 2 ^ 12)
    (x := 1048544) (abs_le.mpr (by omega)) (abs_t3_le hc)
  rw [abs_le] at hprod ⊢
  omega

theorem abs_tempValue_lt : |tempValue c r| < 2 ^ 22 := by
  have hfirst := abs_tempFirst_le hc h0 h20
  have hsecond := abs_tempSecond_le hc h0 h20
  rw [abs_le] at hfirst hsecond
  rw [abs_lt, tempValue]
  omega

/-- What the floors of the square lose, in units of 2^-8: the low four bits of the raw value, and the
shift. -/
theorem abs_tempSquare_sub_le :
    |(r - 16 * c.t1) * (r - 16 * c.t1) - 2 ^ 20 * ((r / 16 - c.t1) * (r / 16 - c.t1) / 2 ^ 12)| ≤
      32505345 := by
  have hdiff := abs_tempDifference_le hc h0 h20
  have hrem : |r % 16| ≤ 15 := abs_le.mpr (by omega)
  have hcross := abs_mul_le_of_abs_le hrem hdiff
  have hsq := abs_mul_le_of_abs_le hrem hrem
  have hsq0 := mul_self_nonneg (r % 16)
  have hsplit : (r - 16 * c.t1) * (r - 16 * c.t1) = 2 ^ 8 * ((r / 16 - c.t1) * (r / 16 - c.t1)) +
      32 * (r % 16 * (r / 16 - c.t1)) + r % 16 * (r % 16) := by
    have hr : r - 16 * c.t1 = 16 * (r / 16 - c.t1) + r % 16 := by omega
    rw [hr]
    ring
  rw [abs_le] at hcross hsq ⊢
  omega

/-- What the floors of the second term lose, in units of 2^-34. -/
theorem abs_tempSecond_sub_lt :
    |(r - 16 * c.t1) * (r - 16 * c.t1) * c.t3 -
      2 ^ 34 * ((r / 16 - c.t1) * (r / 16 - c.t1) / 2 ^ 12 * c.t3 / 2 ^ 14)| < 63 * 2 ^ 34 := by
  have herror := abs_mul_le_of_abs_le (abs_tempSquare_sub_le hc h0 h20) (abs_t3_le hc)
  rw [sub_mul, mul_assoc (2 ^ 20), abs_le] at herror
  rw [abs_lt]
  omega

end Temperature

/-- Settles O23: the result field is the last check, and holds every value in the range. -/
theorem temperatureStage : Obligations.TemperatureStage := by
  have hunbounded (c : Calib) (r : Int) : temperature .unbounded c r = chkField 32 (tempValue c r) :=
    temperature_checks .unbounded c r
  refine ⟨fun c r => (temperature_checks .fault c r).fault_field, hunbounded,
    fun c r se hc h0 h20 => ?_⟩
  have hvalue := abs_tempValue_lt hc h0 h20
  have hfits : fitsS 32 (tempValue c r) = true := by
    rw [abs_lt] at hvalue
    exact fitsS_iff.mpr (by omega)
  exact ⟨abs_tempFirst_le hc h0 h20, abs_tempSecond_le hc h0 h20, hvalue,
    (hunbounded c r).trans (chkField_of_fits hfits)⟩

/-- Settles O24: the first term loses at most 15, the second less than 63. -/
theorem temperatureNearSourceFormula : Obligations.TemperatureNearSourceFormula := by
  intro c r t p se hc h0 h20 hok
  obtain ⟨rfl, -⟩ := (temperature_overflowOr ..).of_ok hok
  have hfirst := abs_tempFirst_sub_le (r := r) hc
  have hsecond := abs_tempSecond_sub_lt hc h0 h20
  rw [tempValue]
  generalize ((r / 8 - 2 * c.t1) * c.t2) / 2 ^ 11 = v1 at hfirst ⊢
  generalize (r / 16 - c.t1) * (r / 16 - c.t1) / 2 ^ 12 * c.t3 / 2 ^ 14 = v2 at hsecond ⊢
  have hq1 : |((r - 16 * c.t1) * c.t2 - 2 ^ 14 * v1 : ℚ)| ≤ 15 * 2 ^ 14 := by exact_mod_cast hfirst
  have hq2 : |((r - 16 * c.t1) * (r - 16 * c.t1) * c.t3 - 2 ^ 34 * v2 : ℚ)| < 63 * 2 ^ 34 := by
    exact_mod_cast hsecond
  rw [abs_le] at hq1
  rw [abs_lt] at hq2 ⊢
  push_cast
  constructor <;> linarith

/-! ### The commands of one stage -/

/-- Settles O36: the calibration test comes before the body of each of the five commands. -/
theorem uncalibratedTestedFirst : Obligations.UncalibratedTestedFirst := by
  intro i s hi hvalid
  cases i <;> simp only [needsCalib, Bool.false_eq_true] at hi
  case compT | compP | compH | compAll | readAll => exact ifCalibrated_not _ hvalid

/-- The record of a single-stage command with a valid store: the value's fields, or the code of the
stage's error alone (R197 to R199). -/
def stageResult (stage : Stage) (fields : Int → Result → Result) : Result :=
  match stage with
  | .ok v => { fields v {} with status := 0#8 }
  | .error e => { status := statusCode (stageStatus e) }

theorem deliver_stageReply (s : State) (stage : Stage) (fields : Int → Result → Result) :
    deliver (stageReply s stage fields) = .next (observe s (stageResult stage fields) []) := by
  cases stage <;> rfl

section ValidStore

variable {s : State} (h : s.calibValid = true)
include h

theorem exec_compT (rawT : Nat) : exec (.compT rawT) s = .next (observe s
    (stageResult (temperature s.params.overflowPolicy s.calib rawT) withTemperature) []) :=
  (ifCalibrated_valid _ h).trans (deliver_stageReply ..)

theorem exec_compP (rawP : Nat) (t : Int) : exec (.compP rawP t) s = .next (observe s
    (stageResult (pressure s.params.overflowPolicy s.calib rawP t) withPressure) []) :=
  (ifCalibrated_valid _ h).trans (deliver_stageReply ..)

theorem exec_compH (rawH : Nat) (t : Int) : exec (.compH rawH t) s = .next (observe s
    (stageResult (humidity s.params.overflowPolicy s.calib rawH t) withHumidity) []) :=
  (ifCalibrated_valid _ h).trans (deliver_stageReply ..)

theorem exec_compAll (x : Burst) (offset : Word) :
    exec (.compAll x offset) s = deliver (pipeline s x offset) :=
  ifCalibrated_valid _ h

end ValidStore

/-- Settles O28: the stage can end with an overflow only, and a delivered t_fine fits its field. -/
theorem compTResult : Obligations.CompTResult := by
  refine ⟨fun a b c => by rw [← field20_eq]; rfl, fun s rawT =>
    ⟨uncalibratedTestedFirst (.compT rawT) s rfl, fun t hv ht => ⟨?_, ?_⟩, fun e hv he => ?_⟩⟩
  · rw [exec_compT hv, ht]
    rfl
  · exact toInt_ofInt_of_fitsS (by decide) ((temperature_overflowOr ..).of_ok ht).2
  · obtain rfl := (temperature_overflowOr ..).of_error he
    rw [exec_compT hv, he]
    rfl

/-- Settles O29: the stage's own error is reported, and a delivered pressure fits its field. -/
theorem compPResult : Obligations.CompPResult := by
  refine ⟨fun a b c => by rw [← field20_eq]; rfl, fun s rawP t =>
    ⟨uncalibratedTestedFirst (.compP rawP t) s rfl, fun p hv hp => ⟨?_, ?_⟩, fun hv he => ?_,
      fun hv he => ?_⟩⟩
  · rw [exec_compP hv, hp]
    rfl
  · exact toInt_ofInt_of_fitsS (by decide) (pressure_ok_fits hp)
  · rw [exec_compP hv, he]
    rfl
  · rw [exec_compP hv, he]
    rfl

/-- Settles O30: the stage can end with an overflow only. -/
theorem compHResult : Obligations.CompHResult := by
  refine ⟨fun a b c => by rw [← field16_eq]; rfl, fun s rawH t =>
    ⟨uncalibratedTestedFirst (.compH rawH t) s rfl, fun v hv hh => ?_, fun e hv he => ?_⟩⟩
  · rw [exec_compH hv, hh]
    rfl
  · obtain rfl := (humidity_overflowOr ..).of_error he
    rw [exec_compH hv, he]
    rfl

/-! ### COMP_ALL -/

/-- The record of COMP_ALL after a delivered t_fine: the pressure and humidity fields and codes are
those of the single-stage commands (R200, R202). -/
def allResult (x : Burst) (t : Int) (corrected : Word) (p h : Stage) : Result where
  tfine := BitVec.ofInt 32 t
  tF32 := rne32 t 5120
  tCorrF32 := corrected
  pStatus := (stageResult p withPressure).status
  pQ8 := (stageResult p withPressure).pQ8
  pF32 := (stageResult p withPressure).pF32
  hStatus := (stageResult h withHumidity).status
  hQ10 := (stageResult h withHumidity).hQ10
  hF32 := (stageResult h withHumidity).hF32
  rawP := burstRawP x
  rawT := burstRawT x
  rawH := burstRawH x

theorem stagesInto_eq (x : Burst) (t : Int) (corrected : Word) (p h : Stage) :
    humidityInto h (pressureInto p { withTemperature t (withRaw x {}) with tCorrF32 := corrected }) =
      allResult x t corrected p h := by
  cases p <;> cases h <;> rfl

/-- The body of COMP_ALL after a delivered t_fine. -/
theorem pipeline_of_ok {s : State} {x : Burst} {t : Int} (offset : Word)
    (ht : temperature s.params.overflowPolicy s.calib (burstRawT x).toNat = .ok t) :
    pipeline s x offset = done (addOffset s (rne32 t 5120) offset).2
      (allResult x t (addOffset s (rne32 t 5120) offset).1
        (pressure s.params.overflowPolicy s.calib (burstRawP x).toNat t)
        (humidity s.params.overflowPolicy s.calib (burstRawH x).toNat t)) := by
  rw [pipeline, ht, ← stagesInto_eq]

theorem pipeline_of_error {s : State} {x : Burst} {e : StageError} (offset : Word)
    (he : temperature s.params.overflowPolicy s.calib (burstRawT x).toNat = .error e) :
    pipeline s x offset = raise s .arithmeticOverflow := by
  obtain rfl := (temperature_overflowOr ..).of_error he
  rw [pipeline, he]
  rfl

theorem exec_compAll_of_ok {s : State} {x : Burst} {t : Int} (offset : Word)
    (hv : s.calibValid = true)
    (ht : temperature s.params.overflowPolicy s.calib (burstRawT x).toNat = .ok t) :
    exec (.compAll x offset) s =
      .next (observe { s with fresh := (addOffset s (rne32 t 5120) offset).2.fresh }
        (allResult x t (addOffset s (rne32 t 5120) offset).1
          (pressure s.params.overflowPolicy s.calib (burstRawP x).toNat t)
          (humidity s.params.overflowPolicy s.calib (burstRawH x).toNat t)) []) := by
  rw [exec_compAll hv, pipeline_of_ok offset ht]
  rfl

theorem exec_compAll_of_error {s : State} {x : Burst} {e : StageError} (offset : Word)
    (hv : s.calibValid = true)
    (he : temperature s.params.overflowPolicy s.calib (burstRawT x).toNat = .error e) :
    exec (.compAll x offset) s = .next (observe s { status := 5#8 } []) := by
  rw [exec_compAll hv, pipeline_of_error offset he]
  rfl

/-- The binary32 of a t_fine is finite. -/
theorem f32Exp_temperature {t : Int} (h : fitsS 32 t = true) : f32Exp (rne32 t 5120) ≠ 255 := by
  rw [fitsS_iff] at h
  exact f32Exp_rne32_of_lt (by decide) (by omega)

/-- No t_fine is rounded to a negative zero: the subnormal next to it is nearer to -1 / 5120. -/
theorem rne32_temperature_ne_negZero {t : Int} (h : fitsS 32 t = true) :
    rne32 t 5120 ≠ 0x80000000#32 := by
  intro hzero
  have hsign : f32Sign (rne32 t 5120) = decide (t < 0) := f32Sign_f32Pack (f32Magnitude_lt _ _)
  have hunits : f32Units 0x80000000#32 = 0 := by decide
  have hnext : f32Units 0x80000001#32 = -1 := by decide
  obtain ⟨hnear, -⟩ := rne32_nearest (by decide) (f32Exp_temperature h) 0x80000001#32
  rw [hzero] at hsign hnear
  have hneg : t < 0 := of_decide_eq_true hsign.symm
  rw [hunits, hnext, abs_of_nonneg (by omega), abs_of_nonneg (by omega)] at hnear
  omega

theorem humidity_toInt {h : Int} (hrange : HumidityInRange h) : (BitVec.ofInt 32 h).toInt = h := by
  obtain ⟨hlow, hhigh⟩ := hrange
  exact toInt_ofInt_of_fitsS (by decide) (fitsS_iff.mpr (by omega))

/-- Settles O31: the record is `allResult`; a delivered temperature is finite and no negative zero, so
an offset of +0.0 leaves it as it is. -/
theorem compAllResult : Obligations.CompAllResult := by
  refine ⟨fun _ _ _ => rfl, fun s x offset =>
    ⟨uncalibratedTestedFirst (.compAll x offset) s rfl,
      fun e hv he => exec_compAll_of_error offset hv he, fun t hv ht => ?_⟩⟩
  have hfits := ((temperature_overflowOr ..).of_ok ht).2
  refine ⟨_, exec_compAll_of_ok offset hv ht, rfl, rfl, rfl, rfl,
    toInt_ofInt_of_fitsS (by decide) hfits, rfl, rfl, ?_, rfl, rfl, rfl, rfl, fun p hp => ?_,
    fun he => ?_, fun he => ?_, fun h hh => ?_, fun e he => ?_⟩
  · rintro rfl
    exact congrArg Prod.fst
      (addOffset_zero s (f32Exp_temperature hfits) (rne32_temperature_ne_negZero hfits))
  · rw [hp]
    exact ⟨rfl, toInt_ofInt_of_fitsS (by decide) (pressure_ok_fits hp), rfl⟩
  · rw [he]
    exact ⟨rfl, rfl, rfl⟩
  · rw [he]
    exact ⟨rfl, rfl, rfl⟩
  · rw [hh]
    exact ⟨rfl, humidity_toInt (humidity_ok_inRange hh), rfl⟩
  · obtain rfl := (humidity_overflowOr ..).of_error he
    rw [he]
    exact ⟨rfl, rfl, rfl⟩

/-- A command that answers shows its reply's record. -/
theorem resultOf_some {i : Instr} {s : State} {r : Result} (h : resultOf i s = some r) :
    r = (replyOf i s).result := by
  unfold resultOf at h
  split at h
  · rename_i t hexec
    obtain ⟨-, rfl⟩ := exec_next hexec
    simpa using h.symm
  · cases h

/-- COMP_T answers OK only with a valid store and a delivered t_fine. -/
theorem compT_ok {s : State} {rawT : Nat} {r : Result} (h : resultOf (.compT rawT) s = some r)
    (hok : r.status = 0#8) : s.calibValid = true ∧
      ∃ t, temperature s.params.overflowPolicy s.calib rawT = .ok t ∧
        r = stageResult (.ok t) withTemperature := by
  cases hv : s.calibValid with
  | false =>
    rw [resultOf_of_exec (uncalibratedTestedFirst (.compT rawT) s rfl hv)] at h
    cases h
    exact absurd hok (by decide)
  | true =>
    rw [resultOf_of_exec (exec_compT hv rawT)] at h
    cases ht : temperature s.params.overflowPolicy s.calib rawT with
    | error e =>
      rw [ht] at h
      cases h
      exact absurd hok (by cases e <;> decide)
    | ok t =>
      rw [ht] at h
      exact ⟨rfl, t, rfl, (Option.some.inj h).symm⟩

/-- Settles O32: the t_fine is read back from COMP_T's record, so COMP_P and COMP_H run the stages that
COMP_ALL runs. -/
theorem compAllMatchesSingleStages : Obligations.CompAllMatchesSingleStages := by
  intro s x offset rt hrt hok
  obtain ⟨hv, t, ht, rfl⟩ := compT_ok hrt hok
  have htfine : (stageResult (.ok t) withTemperature).tfine.toInt = t :=
    toInt_ofInt_of_fitsS (by decide) ((temperature_overflowOr ..).of_ok ht).2
  rw [htfine]
  exact ⟨_, _, _, resultOf_of_exec (exec_compAll_of_ok offset hv ht),
    resultOf_of_exec (exec_compP hv _ t), resultOf_of_exec (exec_compH hv _ t),
    rfl, rfl, rfl, rfl, rfl, rfl, rfl, rfl, rfl⟩

/-! ### The offset stays in its field -/

/-- The record without its corrected temperature. -/
def uncorrected (r : Result) : Result := { r with tCorrF32 := 0 }

theorem pipeline_uncorrected (s : State) (x : Burst) (offset offset' : Word) :
    uncorrected (pipeline s x offset).result = uncorrected (pipeline s x offset').result := by
  cases ht : temperature s.params.overflowPolicy s.calib (burstRawT x).toNat with
  | error e => rw [pipeline_of_error offset ht, pipeline_of_error offset' ht]
  | ok t =>
    rw [pipeline_of_ok offset ht, pipeline_of_ok offset' ht]
    rfl

theorem busRead_uncorrected {s : State} {addr : RegAddr} {n : Nat} {k k' : State → List Byte → Reply}
    (hk : ∀ s' bs, uncorrected (k s' bs).result = uncorrected (k' s' bs).result) :
    uncorrected (busRead s addr n k).result = uncorrected (busRead s addr n k').result := by
  simp only [busRead, traced_result]
  cases acceptBytes n (drawRead s addr n).1 with
  | none => rfl
  | some bs => exact hk _ bs

/-- The calibration test before a body. -/
theorem ite_uncorrected {c : Bool} {r r' e : Reply}
    (h : uncorrected r.result = uncorrected r'.result) :
    uncorrected (if c then r else e).result = uncorrected (if c then r' else e).result := by
  cases c
  · rfl
  · exact h

/-- Settles O33: the offset is used in the pipeline only, after the same burst. -/
theorem offsetOnlyInCorrectedField : Obligations.OffsetOnlyInCorrectedField := by
  intro s x offset offset' r r'
  refine ⟨fun h h' => ?_, fun h h' => ?_⟩ <;> rw [resultOf_some h, resultOf_some h']
  · exact ite_uncorrected (pipeline_uncorrected ..)
  · exact ite_uncorrected (busRead_uncorrected fun _ _ => pipeline_uncorrected ..)

/-! ### The range of the humidity -/

/-- The humidity in a record is a value from 0 to 100 percent, in both its forms (R204). -/
def HumidityPercent (q10 : BitVec 32) (f32 : Word) : Prop :=
  q10.toNat ≤ 102400 ∧ 0 ≤ f32Units f32 ∧ f32Units f32 ≤ 100 * 2 ^ 149

theorem humidityPercent_of_inRange {h : Int} (hrange : HumidityInRange h) :
    HumidityPercent (BitVec.ofInt 32 h) (rne32 h 1024) := by
  obtain ⟨hlow, hhigh⟩ := hrange
  obtain ⟨-, hexact⟩ := humidityFloatExact h hlow hhigh
  exact ⟨humidity_toNat_le ⟨hlow, hhigh⟩, by omega, by omega⟩

theorem stageResult_humidity {stage : Stage} (h : OverflowOr HumidityInRange stage) :
    (stageResult stage withHumidity).status = 5#8 ∨ ((stageResult stage withHumidity).status = 0#8 ∧
      HumidityPercent (stageResult stage withHumidity).hQ10 (stageResult stage withHumidity).hF32) := by
  obtain rfl | ⟨v, rfl, hrange⟩ := h
  · exact .inl rfl
  · exact .inr ⟨rfl, humidityPercent_of_inRange hrange⟩

/-- Settles O34: the humidity stage ends with an overflow or in its range; COMP_ALL can end before it
with a temperature overflow. -/
theorem humidityRangeLaw : Obligations.HumidityRangeLaw := by
  refine ⟨fun s rawH t hv => ⟨_, resultOf_of_exec (exec_compH hv rawH t),
    stageResult_humidity (humidity_overflowOr ..)⟩, fun s x offset hv => ?_⟩
  cases ht : temperature s.params.overflowPolicy s.calib (burstRawT x).toNat with
  | error e => exact ⟨_, resultOf_of_exec (exec_compAll_of_error offset hv ht), .inl rfl⟩
  | ok t =>
    exact ⟨_, resultOf_of_exec (exec_compAll_of_ok offset hv ht),
      .inr ⟨rfl, stageResult_humidity (humidity_overflowOr ..)⟩⟩

end Sys2Proof.Machine

/-! PROOFS. The statements of 43_bus_commands.md: READ_ALL (R240), the one-byte reads (R241 to R243), the
register writes (R244 to R247), the failure rule (R248), and the mode written and read back. -/

namespace Sys2Proof.Machine

/-! ### A failed transaction -/

/-- Settles O52: the pair a command adds is its reply's, which is legal; a failed event makes its status
an error, and an error keeps the store. -/
theorem busFailureEndsCommand : Obligations.BusFailureEndsCommand := by
  intro i s t o hexec hobs
  obtain ⟨-, rfl⟩ := exec_next hexec
  obtain rfl : (replyOf i s).shown = o := by
    rw [(replyOf_keeps i s).observed_delivered] at hobs
    simpa using hobs
  obtain ⟨-, htrace, -⟩ := replyOf_legal i s
  refine ⟨htrace, fun hfailed => replyOf_error_storeKept ?_⟩
  have hstatus : (replyOf i s).result.status = 1#8 := htrace.1.mpr hfailed
  rw [hstatus]
  decide

/-! ### The command of one transaction -/

theorem exec_answering {i : Instr} {s : State} (h : s.hung = false) :
    exec i s = deliver (replyOf i s) := by
  rw [exec_eq, stuck, h]
  rfl

section OneRead

variable {s s' : State} {addr : RegAddr} {n : Nat} {answer : ReadAnswer}
  (hd : drawRead s addr n = (answer, s'))
include hd

/-- A failed read is reported behind its one event (R248). -/
theorem deliver_busRead_failed (k : State → List Byte → Reply) (hnone : acceptBytes n answer = none) :
    deliver (busRead s addr n k) =
      .next (observe s' { status := 1#8 } [.read s.params.devAddr addr n answer]) := by
  rw [busRead_failed hd hnone]
  rfl

/-- An accepted read puts its one event before what the command goes on with. -/
theorem deliver_busRead_accepted (k : State → List Byte → Reply) {bs : List Byte}
    (hanswer : answer = .ok bs) (hlen : bs.length = n) :
    deliver (busRead s addr n k) = .next (observe (k s' bs).state (k s' bs).result
      (.read s.params.devAddr addr n answer :: (k s' bs).trace)) := by
  subst hanswer
  rw [busRead_accepted hd (acceptBytes_of_length hlen)]
  rfl

end OneRead

/-! ### The one-byte reads -/

/-- The byte of a record passes through the mode decoder, which moves the state and writes the mode
fields in the same way for every byte. -/
theorem decodeModeInto_byte (s : State) (image b : Byte) :
    decodeModeInto s image { byte := b } =
      { decodeModeInto s image {} with
        result := { (decodeModeInto s image {}).result with byte := b } } := by
  unfold decodeModeInto
  cases modeOrdinal s.params.mode10Decode (modeField image) <;> rfl

theorem decodeModeInto_trace (s : State) (image : Byte) (res : Result) :
    (decodeModeInto s image res).trace = [] := by
  obtain ⟨_, _, -, -, h⟩ := decodeModeInto_spec s image res
  rw [h]
  rfl

theorem exec_decMode (s : State) (image : Byte) : exec (.decMode image) s =
    .next (observe (decodeModeInto s image {}).state (decodeModeInto s image {}).result []) := by
  rw [exec_codec rfl, deliver_eq, replyOf, decodeModeInto_trace]

/-- READ_MODE answered: what DEC_MODE does with the byte read, and the byte beside it (R242). -/
theorem exec_readMode_accepted {s s' : State} {answer : ReadAnswer} {b : Byte} (hhung : s.hung = false)
    (hd : drawRead s 0xF4#8 1 = (answer, s')) (hb : answer = .ok [b]) : exec .readMode s =
      .next (observe (decodeModeInto s' b {}).state
        { (decodeModeInto s' b {}).result with byte := b }
        [.read s.params.devAddr 0xF4#8 1 answer]) := by
  rw [exec_answering hhung, replyOf, deliver_busRead_accepted hd _ hb rfl]
  simp only [byteAt, List.getD_cons_zero, decodeModeInto_trace]
  rw [decodeModeInto_byte s' b b]

/-- Settles O42: each command is its one read, and READ_MODE goes on as DEC_MODE. -/
theorem registerReads : Obligations.RegisterReads := by
  refine ⟨fun s addr n => ⟨drawRead_calib s addr n, drawRead_calibValid s addr n⟩,
    fun s s' answer hhung => ⟨fun hd => ?_, fun hd => ?_, fun hd => ?_⟩⟩
  · rw [exec_answering hhung]
    refine ⟨fun b hb => ?_, deliver_busRead_failed hd _⟩
    rw [← busyFlag_eq]
    exact deliver_busRead_accepted hd _ hb rfl
  · refine ⟨fun b hb => ⟨_, _, exec_decMode s' b, exec_readMode_accepted hhung hd hb⟩, ?_⟩
    rw [exec_answering hhung]
    exact deliver_busRead_failed hd _
  · rw [exec_answering hhung]
    exact ⟨fun b hb => deliver_busRead_accepted hd _ hb rfl, deliver_busRead_failed hd _⟩

/-! ### The register writes -/

/-- Settles O43: each command is its one write, which moves the sensor side only. -/
theorem registerWrites : Obligations.RegisterWrites := by
  intro i addr v s s' answer hi hhung hd
  have hcalib := drawWrite_calib s addr v
  have hvalid := drawWrite_calibValid s addr v
  rw [hd] at hcalib hvalid
  rw [exec_answering hhung, replyOf_registerWritten hi, writeImage]
  refine ⟨hcalib, hvalid, ?_, ?_⟩ <;> rintro rfl
  · rw [busWrite_ok hd]
    rfl
  · rw [busWrite_failed hd]
    rfl

/-! ### READ_ALL -/

/-- The body of COMP_ALL issues no transaction. -/
theorem pipeline_trace (s : State) (x : Burst) (offset : Word) : (pipeline s x offset).trace = [] :=
  List.length_eq_zero_iff.mp (Nat.le_zero.mp (EventsLe.pipeline s x offset).length_le)

/-- With a valid store and an answering transport READ_ALL is its burst read and the body of COMP_ALL
behind it (R240). -/
theorem exec_readAll {s : State} (hvalid : s.calibValid = true) (hhung : s.hung = false)
    (offset : Word) : exec (.readAll offset) s =
      deliver (busRead s 0xF7#8 8 fun s r => pipeline s (burstOfBytes r) offset) :=
  (ifCalibrated_valid _ hvalid).trans (onBus_answering _ hhung)

/-- Settles O44: the read leaves the store valid, so COMP_ALL passes its calibration test and ends as the
body does. -/
theorem readAllMatchesCompAll : Obligations.ReadAllMatchesCompAll := by
  refine ⟨fun _ _ _ => rfl, fun s offset => uncalibratedTestedFirst (.readAll offset) s rfl, ?_⟩
  intro s s' offset answer hvalid hhung hd
  rw [exec_readAll hvalid hhung]
  refine ⟨deliver_busRead_failed hd _, fun bs hbs hlen => ⟨_, _, ?_,
    (deliver_busRead_accepted hd _ hbs hlen).trans (by rw [pipeline_trace])⟩⟩
  have hvalid' : s'.calibValid = true := by
    simpa [hd, hvalid] using drawRead_calibValid s 0xF7#8 8
  rw [exec_compAll hvalid', deliver_eq, pipeline_trace]

/-! ### The mode written and read back -/

/-- A one-byte read of the image answers the register's byte. -/
theorem drawRead_image_one {s : State} (himage : s.oracle = .image) (addr : RegAddr) :
    drawRead s addr 1 = (.ok [memRead s.regs addr.toNat], s) :=
  drawRead_image himage

theorem modeCode_min (m : Nat) : modeCode (min m 2) = modeCode m := by
  simp [modeCode, clampOrd, modeMaxOrd]

/-- The mode field of a ctrl_meas image decodes to the clamped ordinal, under every `MODE10_DECODE`. -/
theorem modeOrdinal_ctrlMeasImage (d : Mode10Decode) (osT osP mode : Nat) :
    modeOrdinal d (modeField (ctrlMeasImage osT osP mode)) = some (min mode 2) := by
  have hfield : modeField (ctrlMeasImage osT osP mode) = BitVec.ofNat 2 (modeCode mode) := by
    have := modeCode_lt mode
    refine modeField_of_mod ?_
    rw [ctrlMeasImage_toNat]
    omega
  rw [hfield, ← modeCode_min, modeOrdinal_modeCode d (Nat.min_le_right ..)]

/-- Settles O46: the image written is the byte read, and its mode field has an ordinal of its own. -/
theorem writtenModeReadsBack : Obligations.WrittenModeReadsBack := by
  intro s t a b m hwf himage hhung hexec
  obtain ⟨himage', hwritten, -⟩ := registerImageFrame _ s t hwf himage hexec
  obtain ⟨hbyte, -⟩ := hwritten 0xF4#8 (ctrlMeasImage a b m) rfl (by decide)
  have hhung' : t.hung = false := by
    obtain ⟨-, rfl⟩ := exec_next hexec
    exact (replyOf_keeps _ s).hung.trans hhung
  have hread : drawRead t 0xF4#8 1 = (.ok [ctrlMeasImage a b m], t) := by
    rw [drawRead_image_one himage', hbyte]
  refine ⟨_, resultOf_of_exec (exec_readMode_accepted hhung' hread rfl), ?_⟩
  rw [decodeModeInto, modeOrdinal_ctrlMeasImage]
  exact ⟨rfl, codeByte_toNat (by omega)⟩

end Sys2Proof.Machine

/-! PROOFS. The statements of 60_exceptions.md: the one stop of an instruction (R282, and R335 of
70_reset_and_hazards.md). -/

namespace Sys2Proof.Machine

/-! ### The one stop -/

/-- A bus command comes to a transaction unless a test before it ends it: LOAD_CALIB's lock (R120) or
READ_ALL's calibration test (R240). -/
theorem reachesBus_iff (i : Instr) (valid : Bool) :
    reachesBus i valid = true ↔
      isBus i = true ∧ (i = .loadCalib → valid = false) ∧ (needsCalib i = true → valid = true) := by
  cases i <;> simp [reachesBus, isBus, needsCalib]

theorem exec_stuck {i : Instr} {s : State} (h : stuck i s = true) :
    exec i s = .fault .transportHung := by
  rw [exec_eq, if_pos h]

theorem exec_not_stuck {i : Instr} {s : State} (h : ¬ stuck i s = true) :
    exec i s = deliver (replyOf i s) := by
  rw [exec_eq, if_neg h]

theorem exec_fault_iff_stuck (i : Instr) (s : State) :
    exec i s = .fault .transportHung ↔ stuck i s = true := by
  refine ⟨fun hfault => ?_, exec_stuck⟩
  by_contra hstuck
  rw [exec_not_stuck hstuck] at hfault
  cases hfault

/-- Settles O47: `exec` faults exactly when the command is stuck, and delivers its reply otherwise. -/
theorem onlyTheTransportStops : Obligations.OnlyTheTransportStops := by
  refine fun i s => ⟨?_, fun hfault => ⟨_, exec_not_stuck (hfault ∘ exec_stuck)⟩⟩
  rw [exec_fault_iff_stuck, stuck, Bool.and_eq_true, reachesBus_iff]

end Sys2Proof.Machine

/-! PROOFS. The statement of 70_reset_and_hazards.md: what a block reset leaves alone (R320, R322). -/

namespace Sys2Proof.Machine

/-- Settles O10: the step takes the entry off the port, and the reset touches the store and the trace
only. -/
theorem blockResetFrame : Obligations.BlockResetFrame := by
  intro s rest hin
  exact ⟨_, step_blockReset hin, blockReset_observed _, blockReset_inputs _, blockReset_params _,
    blockReset_oracle _, blockReset_regs _, blockReset_hung _, blockReset_fresh _⟩

end Sys2Proof.Machine
